-- ==== Sys2Proof/Word.lean ====
section
/-! DEFINITION. The words, pixels and coordinates the block handles, and the structural constants of
spec/00_scope.md R6 and R7 that its types are built from. -/

namespace Sys2Proof

/-- A register or command word (R50, R70). -/
abbrev Word := BitVec 32

/-- A byte: an image channel (R11) or one byte lane of the host bus (R51). -/
abbrev Byte := BitVec 8

/-- `SCALE` (R6): output pixels per source pixel along each axis. -/
abbrev scale : Nat := 4

/-- `TILE_ROWS` (R6). -/
abbrev tileRows : Nat := 8

/-- `TILE_COLS` (R6). -/
abbrev tileCols : Nat := 6

/-- `CH_MAX` (R6): the largest channel value. -/
abbrev chMax : Nat := 255

/-- `DIM_BITS` (R7): the width of WIDTH and HEIGHT. -/
abbrev dimBits : Nat := 16

/-- `DST_COORD_BITS` (R7): the width of a destination coordinate. -/
abbrev dstCoordBits : Nat := 18

/-- `REG_WINDOW` (R7): the size of the register window in bytes. -/
abbrev regWindow : Nat := 0x100

/-- An image dimension (R7, R23). -/
abbrev Dim := BitVec dimBits

/-- A colour channel: 0 is R, 1 is G, 2 is B (R11, R102). -/
abbrev Channel := Fin 3

/-- A row of the mask tile. -/
abbrev TileRow := Fin tileRows

/-- A column of the mask tile. -/
abbrev TileCol := Fin tileCols

/-- A sub-row or sub-column of the 4×4 block of one source pixel (R14). -/
abbrev Sub := Fin scale

/-- An ordered triple of unsigned 8-bit integers (R11). -/
structure Pixel where
  r : Byte
  g : Byte
  b : Byte
  deriving DecidableEq, Repr

/-- `BLACK` (R11). -/
def black : Pixel := ⟨0, 0, 0⟩

/-- The mask tile `TILE`: 8 rows of 6 cells (R23, R24). -/
abbrev Tile := Vector (Vector Pixel tileCols) tileRows

/-- A coordinate of a pixel space: column `x`, row `y` (R37, R57, R58). -/
structure Coord where
  x : Nat
  y : Nat
  deriving DecidableEq, Repr

end Sys2Proof
end

