-- ==== Sys2Proof/Syntax.lean ====
section
/-! DEFINITION. The commands of PMSR-CMD version 1: one constructor per row of spec/opcode_table.json (R74).
An operand has exactly the width of its field (R73). -/

namespace Sys2Proof

/-- A command (R74). -/
inductive Instr where
  /-- `NOP` (R90). -/
  | nop
  /-- `SET_MASK_STRENGTH IMM8` (R91). -/
  | setMaskStrength (imm8 : BitVec 8)
  /-- `SET_GAP_STRENGTH IMM8` (R92). -/
  | setGapStrength (imm8 : BitVec 8)
  /-- `SET_WIDTH IMM16` (R93). -/
  | setWidth (imm16 : BitVec 16)
  /-- `SET_HEIGHT IMM16` (R94). -/
  | setHeight (imm16 : BitVec 16)
  /-- `GEN_LUT` (R109). -/
  | genLut
  /-- `READ_LUT ROW, COL` (R110). -/
  | readLut (row col : BitVec 3)
  /-- `RENDER` (R130). -/
  | render
  /-- `CLEAR_STATUS` (R150). -/
  | clearStatus
  /-- `SOFT_RESET` (R151). -/
  | softReset
  deriving DecidableEq, Repr

end Sys2Proof
end

