-- ==== Sys2Proof/WellFormed.lean ====
section
/-! DEFINITION. Which commands are well formed. Operand widths are in the types; the one illegal operand value
is COL 6 or 7 in READ_LUT (R77). -/

namespace Sys2Proof

/-- R73, R77: COL is 0..5; every value of IMM8, IMM16 and ROW is legal. -/
def Instr.wf : Instr → Bool
  | .nop => true
  | .setMaskStrength _ => true
  | .setGapStrength _ => true
  | .setWidth _ => true
  | .setHeight _ => true
  | .genLut => true
  | .readLut _ col => decide (col.toNat < tileCols)
  | .render => true
  | .clearStatus => true
  | .softReset => true

end Sys2Proof
end

