-- ==== Sys2Proof/Decode.lean ====
section
/-! DEFINITION. Command words: formats, opcode map, decoder and encoder (spec/30_encoding.md R70 to R78), the
byte order of a word on the host bus (R51), and the host's reading of a table word. -/

namespace Sys2Proof

/-! ### Words and bytes (R51) -/

/-- The four bytes of a word at ascending addresses: byte `n` is bits `8n+7 : 8n` (R51). -/
def wordBytes (w : Word) : List Byte :=
  [w.extractLsb' 0 8, w.extractLsb' 8 8, w.extractLsb' 16 8, w.extractLsb' 24 8]

/-- The word whose bytes stand at ascending addresses (R51); only four bytes make a word (R70). -/
def wordOfBytes? : List Byte → Option Word
  | [b0, b1, b2, b3] => some (b3 ++ b2 ++ b1 ++ b0)
  | _ => none

/-! ### Formats and opcodes (R71, R72, R74) -/

/-- The four formats of R72. -/
inductive Format where
  | n
  | b
  | h
  | l
  deriving DecidableEq, Repr

/-- R72's reserved-zero mask of a format. -/
def Format.reservedZeroMask : Format → Word
  | .n => 0x00FFFFFF#32
  | .b => 0x00FFFF00#32
  | .h => 0x00FF0000#32
  | .l => 0x00FFF8F8#32

/-- The ten assigned opcodes, by mnemonic (R74). -/
inductive Op where
  | nop
  | setMaskStrength
  | setGapStrength
  | setWidth
  | setHeight
  | genLut
  | readLut
  | render
  | clearStatus
  | softReset
  deriving DecidableEq, Repr

/-- Every row of R74's table. -/
def Op.all : List Op :=
  [.nop, .setMaskStrength, .setGapStrength, .setWidth, .setHeight, .genLut, .readLut, .render,
    .clearStatus, .softReset]

/-- R74's column OPC. -/
def Op.opc : Op → BitVec 8
  | .nop => 0x00#8
  | .setMaskStrength => 0x01#8
  | .setGapStrength => 0x02#8
  | .setWidth => 0x03#8
  | .setHeight => 0x04#8
  | .genLut => 0x10#8
  | .readLut => 0x11#8
  | .render => 0x20#8
  | .clearStatus => 0xF0#8
  | .softReset => 0xFF#8

/-- R74's column "format". -/
def Op.format : Op → Format
  | .nop => .n
  | .setMaskStrength => .b
  | .setGapStrength => .b
  | .setWidth => .h
  | .setHeight => .h
  | .genLut => .n
  | .readLut => .l
  | .render => .n
  | .clearStatus => .n
  | .softReset => .n

/-- The row of R74's table with this opcode; none for the 246 unassigned values (R75). -/
def Op.ofOpc (opc : BitVec 8) : Option Op :=
  Op.all.find? fun o => o.opc == opc

/-! ### Fields (R71, R73) -/

/-- `OPC = w[31:24]` (R71). -/
def opcField (w : Word) : BitVec 8 := w.extractLsb' 24 8

/-- `IMM8 = w[7:0]` (R73). -/
def imm8Field (w : Word) : BitVec 8 := w.extractLsb' 0 8

/-- `IMM16 = w[15:0]` (R73). -/
def imm16Field (w : Word) : BitVec 16 := w.extractLsb' 0 16

/-- `ROW = w[10:8]` (R73). -/
def rowField (w : Word) : BitVec 3 := w.extractLsb' 8 3

/-- `COL = w[2:0]` (R73). -/
def colField (w : Word) : BitVec 3 := w.extractLsb' 0 3

/-! ### Decoding (R75 to R78) -/

/-- Why a word is no command, with the names of R160. -/
inductive Reject where
  /-- `w[31:24]` is not an assigned opcode (R75). -/
  | illegalOpcode
  /-- An assigned opcode with a nonzero reserved bit (R76). -/
  | reservedBits
  /-- READ_LUT with COL 6 or 7 (R77). -/
  | range
  deriving DecidableEq, Repr

/-- The command a word with this opcode stands for, its operands read as R73 says. -/
def Op.instr : Op → Word → Instr
  | .nop, _ => .nop
  | .setMaskStrength, w => .setMaskStrength (imm8Field w)
  | .setGapStrength, w => .setGapStrength (imm8Field w)
  | .setWidth, w => .setWidth (imm16Field w)
  | .setHeight, w => .setHeight (imm16Field w)
  | .genLut, _ => .genLut
  | .readLut, w => .readLut (rowField w) (colField w)
  | .render, _ => .render
  | .clearStatus, _ => .clearStatus
  | .softReset, _ => .softReset

/-- The checks of R78 after the busy check, in its order: opcode, reserved bits, range (R164). -/
def decodeWord (w : Word) : Except Reject Instr :=
  match Op.ofOpc (opcField w) with
  | none => .error .illegalOpcode
  | some o =>
    if w &&& o.format.reservedZeroMask ≠ 0#32 then .error .reservedBits
    else if (o.instr w).wf then .ok (o.instr w)
    else .error .range

/-- Why bytes are no command. -/
inductive DecodeError where
  /-- The bytes are not one 32-bit word (R70: no other length exists). -/
  | notOneWord
  /-- The word is rejected. -/
  | rejected (r : Reject)
  deriving DecidableEq, Repr

/-- The command that bytes at ascending addresses stand for; total on any bytes. -/
def decode (bytes : List Byte) : Except DecodeError Instr :=
  match wordOfBytes? bytes with
  | none => .error .notOneWord
  | some w =>
    match decodeWord w with
    | .error r => .error (.rejected r)
    | .ok i => .ok i

/-! ### Encoding (R72, R74) -/

/-- The row of R74 a command belongs to. -/
def Instr.op : Instr → Op
  | .nop => .nop
  | .setMaskStrength _ => .setMaskStrength
  | .setGapStrength _ => .setGapStrength
  | .setWidth _ => .setWidth
  | .setHeight _ => .setHeight
  | .genLut => .genLut
  | .readLut _ _ => .readLut
  | .render => .render
  | .clearStatus => .clearStatus
  | .softReset => .softReset

/-- Bits [23:0] of a command word, laid out as R72's bit patterns. -/
def Instr.operandBits : Instr → BitVec 24
  | .nop => 0#24
  | .setMaskStrength imm8 => 0#16 ++ imm8
  | .setGapStrength imm8 => 0#16 ++ imm8
  | .setWidth imm16 => 0#8 ++ imm16
  | .setHeight imm16 => 0#8 ++ imm16
  | .genLut => 0#24
  | .readLut row col => 0#13 ++ row ++ 0#5 ++ col
  | .render => 0#24
  | .clearStatus => 0#24
  | .softReset => 0#24

/-- The word of a command (R72, R74). -/
def encode (i : Instr) : Word := i.op.opc ++ i.operandBits

/-- The command the decoder reads from a table word: `w` numbered as spec/opcode_table.json numbers bits,
cut to its `nbits` bits, laid out as the bus lays a word out (R51). -/
def decodeTableWord (nbits w : Nat) : Option Instr :=
  match decode (wordBytes (BitVec.ofNat 32 (w % 2 ^ nbits))) with
  | .ok i => some i
  | .error _ => none

end Sys2Proof
end

