-- ==== Sys2Proof/Config.lean ====
section
/-! DEFINITION. What one implementation fixes: the parameters that spec/93_implementation_defined.md (U7 to
U10) asks a model to keep under their names, and the values the spec leaves free, as constants with no
body. The normative parameter values stand in Machine/Params.lean. -/

namespace Sys2Proof

/-- The parameters of R6, R7 and U7 to U10. The datapath takes them as an argument. -/
structure Config where
  /-- `MASK_DEFAULT` (R6, U7). -/
  maskDefault : Byte
  /-- `GAP_DEFAULT` (R6, U7). -/
  gapDefault : Byte
  /-- `GAP_TOP_SUB` (R6, R121, U7). -/
  gapTopSub : Nat
  /-- `GAP_BOT_SUB` (R6, R121, U7). -/
  gapBotSub : Nat
  /-- `BOOST_DIV` (R6, R123, U7). -/
  boostDiv : Nat
  /-- `NORM_DIV` (R6, R123, U7). -/
  normDiv : Nat
  /-- `GAP_PHASE` (R7, R102, U8). -/
  gapPhase : Nat
  /-- `BOOST_PRECLAMP` (U9): clamp the boosted value before the multiply. -/
  boostPreclamp : Bool
  /-- `ROW_RESTART` (U10): restore the cursor row at the start of each source row. -/
  rowRestart : Bool
  deriving DecidableEq, Repr

/-- `REG_BASE` (R7, R55): OPEN, the host-bus address of the register window. Assumption log 5. -/
opaque Config.regBase : Nat

/-- U1: what the `n`-th free draw of a CURSOR, PREV or POS read while BUSY returns. Assumption log 6. -/
opaque Config.busyRead : Nat → Word

/-- U2 (R181): whether an abort leaves the rendered value (rather than the prior one) in a pixel of the
aborted render's region, drawn for each abort and each pixel. Assumption log 7. -/
opaque Config.abortTakesRendered : Nat → Coord → Bool

/-- R187: whether a host load of a destination pixel during a render sees the rendered value (rather than
the prior one), drawn for each load. Assumption log 8. -/
opaque Config.earlyLoadSeesRendered : Nat → Coord → Bool

end Sys2Proof
end

