-- ==== Sys2Proof/Machine/Params.lean ====
section
/-! DEFINITION. The normative values of the parameters (spec/00_scope.md R6 and R7; the normative column of
spec/93_implementation_defined.md U7 to U10). -/

namespace Sys2Proof.Machine

/-- The parameter values the spec states. -/
def params : Config where
  maskDefault := 180
  gapDefault := 50
  gapTopSub := 60
  gapBotSub := 120
  boostDiv := 8
  normDiv := 200
  gapPhase := 0
  boostPreclamp := false
  rowRestart := false

end Sys2Proof.Machine
end

