-- ==== Sys2Proof/Machine/Pixels.lean ====
section
/-! DEFINITION. Arithmetic on naturals (spec/00_scope.md R10), the channels and the packing of a Pixel (R11), and
access to the cells of a mask tile (R24). -/

namespace Sys2Proof

/-- `sat_sub` (R10). -/
def satSub (a b : Nat) : Nat := if b ≤ a then a - b else 0

/-- `clamp255` (R10). -/
def clamp255 (v : Nat) : Nat := min v chMax

/-- `p[k]` (R11). -/
def Pixel.ch (p : Pixel) (k : Channel) : Byte :=
  match k with
  | 0 => p.r
  | 1 => p.g
  | 2 => p.b

/-- The Pixel whose channel `k` is the number `f k`; every caller's numbers are at most 255 (R9, R10). -/
def Pixel.ofChannels (f : Channel → Nat) : Pixel :=
  ⟨BitVec.ofNat 8 (f 0), BitVec.ofNat 8 (f 1), BitVec.ofNat 8 (f 2)⟩

/-- `pack` (R11): R in [7:0], G in [15:8], B in [23:16], zero above. -/
def Pixel.pack (p : Pixel) : Word := 0#8 ++ p.ch 2 ++ p.ch 1 ++ p.ch 0

/-- `TILE[r][c]` (R12). -/
def Tile.cell (t : Tile) (r : TileRow) (c : TileCol) : Pixel := t[r][c]

/-- The tile whose cell (row `r`, column `c`) is `f r c`. -/
def Tile.ofCells (f : TileRow → TileCol → Pixel) : Tile :=
  Vector.ofFn fun r => Vector.ofFn fun c => f r c

end Sys2Proof
end

