-- ==== Sys2Proof/Machine/MaskTable.lean ====
section
/-! DEFINITION. The Mask Table Generator, a pure function of two bytes (spec/41_mask_table.md R100 to R107). -/

namespace Sys2Proof.Machine

/-- R100. -/
def gapHigh (gap : Nat) : Nat := satSub chMax gap

/-- R101. -/
def gapLow (mask gap : Nat) : Nat := satSub mask gap

/-- `actA` (R102): the active channel of an accent cell. -/
def accentChannel (col : TileCol) : Channel := Fin.ofNat 3 col.val

/-- `actG` (R102): the active channel of a gap-blend cell. -/
def gapChannel (c : Config) (col : TileCol) : Channel := Fin.ofNat 3 (col.val + c.gapPhase)

/-- R103. -/
def accentCell (mask : Nat) (col : TileCol) : Pixel :=
  Pixel.ofChannels fun k => if k = accentChannel col then chMax else mask

/-- R104. -/
def gapCell (c : Config) (mask gap : Nat) (col : TileCol) : Pixel :=
  Pixel.ofChannels fun k => if k = gapChannel c col then gapHigh gap else gapLow mask gap

/-- The two kinds of tile cell (R14). -/
inductive CellKind where
  | accent
  | gapBlend
  deriving DecidableEq, Repr

/-- R105's table. -/
def cellKind (row : TileRow) (col : TileCol) : CellKind :=
  match row with
  | 0 | 2 | 4 | 6 => .accent
  | 1 | 5 => if col.val < 3 then .accent else .gapBlend
  | 3 | 7 => if col.val < 3 then .gapBlend else .accent

/-- `GenTile(M, G)` (R106). -/
def genTile (c : Config) (mask gap : Byte) : Tile :=
  Tile.ofCells fun row col =>
    match cellKind row col with
    | .accent => accentCell mask.toNat col
    | .gapBlend => gapCell c mask.toNat gap.toNat col

end Sys2Proof.Machine
end

