-- ==== Sys2Proof/Machine/State.lean ====
section
/-! DEFINITION. The machine's state as plain data (spec/10_state.md R23, R37): the block's registers, and around
them the host's two images and the events still to come. With it the reasons a step can stop and the
state after reset. -/

namespace Sys2Proof.Machine

/-- `ERRCODE`: exactly the five values of R160 (U6). -/
inductive ErrCode where
  /-- 0, `NONE`. -/
  | noError
  /-- 1, `ILLEGAL_OPCODE`. -/
  | illegalOpcode
  /-- 2, `RESERVED_BITS`. -/
  | reservedBits
  /-- 3, `RANGE`. -/
  | range
  /-- 4, `BUSY_REJECT`. -/
  | busyReject
  deriving DecidableEq, Repr

/-- A pixel space held by the host (R37): Pixels by coordinate, in raster order, each coordinate once.
`Memory.wf` (Machine/Ops.lean) is the canonical form. -/
abbrev Memory := List (Coord × Pixel)

/-- Where a host access goes (R12, R50, R55). -/
inductive BusAddr where
  /-- A byte offset from REG_BASE. -/
  | window (off : Nat)
  /-- A host-bus byte address; REG_BASE is open. -/
  | absolute (addr : Nat)
  deriving DecidableEq, Repr

/-- Who takes the next step, and what it does (R20): the engine, the host, or the reset input. A list of
these fixes how host and engine interleave; assumption log 3. -/
inductive Event where
  /-- The engine takes a step, if it has one (R131). -/
  | engineStep
  /-- The host reads `bytes` bytes of the register window (R50). -/
  | busRead (addr : BusAddr) (bytes : Nat)
  /-- The host writes bytes, at ascending addresses, to the register window (R50, R51). -/
  | busWrite (addr : BusAddr) (data : List Byte)
  /-- `WAIT_IDLE`: the host reads STATUS until BUSY reads 0 (R80); assumption log 9. -/
  | waitIdle
  /-- The block's reset input (R180). -/
  | resetInput
  /-- The host puts one pixel into its source image (R183 step 1). -/
  | storeSrc (at_ : Coord) (p : Pixel)
  /-- The host allocates a destination of `w × h` pixels, nothing yet written in it (R183 step 2). -/
  | allocDst (w h : Nat)
  /-- The host writes one pixel of its destination image. -/
  | storeDst (at_ : Coord) (p : Pixel)
  /-- The host reads one pixel of its destination image (R183 step 7). -/
  | loadDst (at_ : Coord)
  deriving DecidableEq, Repr

/-- What a read has brought back to the host. -/
inductive Delivered where
  /-- A register (R52). -/
  | word (w : Word)
  /-- A destination pixel (R183 step 7). -/
  | pixel (p : Pixel)
  deriving DecidableEq, Repr

/-- The whole machine. The fields down to `result` are R23's table, row by row. -/
structure State where
  /-- `MASK_STRENGTH`. -/
  maskStrength : Byte
  /-- `GAP_STRENGTH`. -/
  gapStrength : Byte
  /-- `WIDTH`. -/
  width : Dim
  /-- `HEIGHT`. -/
  height : Dim
  /-- `TILE`. -/
  tile : Tile
  /-- `CUR_ROW`. -/
  curRow : TileRow
  /-- `CUR_COL`: 6 and 7 are never held. -/
  curCol : TileCol
  /-- `PREV`. -/
  prev : Pixel
  /-- `CURPIX`. -/
  curPix : Pixel
  /-- `SX`. -/
  sx : Dim
  /-- `SY`. -/
  sy : Dim
  /-- `SJ`. -/
  sj : Sub
  /-- `SI`. -/
  si : Sub
  /-- `BUSY`. -/
  busy : Bool
  /-- `DONE`. -/
  done : Bool
  /-- `ERR`. -/
  err : Bool
  /-- `ERRCODE`. -/
  errCode : ErrCode
  /-- `RESULT`. -/
  result : Word
  /-- The host's source image (R37, R57); an unlisted coordinate holds BLACK (assumption log 1). -/
  src : Memory
  /-- The host's destination image (R37, R58); an unlisted coordinate has never been written (assumption log 2). -/
  dst : Memory
  /-- Width of the host's destination allocation (R184). -/
  allocWidth : Nat
  /-- Height of the host's destination allocation (R184). -/
  allocHeight : Nat
  /-- While a render runs, the destination as it stood at its start (R181 needs it); else empty. -/
  dstBefore : Memory
  /-- The events still to come, the next one first. -/
  agenda : List Event
  /-- What reads have brought back to the host, the latest first. -/
  delivered : List Delivered
  /-- How many free values have been drawn: the model's own (assumption logs 6 to 8). -/
  draws : Nat
  deriving DecidableEq, Repr

/-- Why the machine stops. Each is raised by a host move the spec gives no meaning, and each is safe: the
model goes no further where hardware might. -/
inductive Fault where
  /-- Raised by `busRead` and `busWrite` that are not one aligned 32-bit access inside the window (R50, U5).
  Safe: the spec has no step here. -/
  | busError
  /-- Raised by `storeSrc`, `allocDst` and `storeDst` while BUSY (R186, U4): the host has no such move. Safe. -/
  | hostMoveWhileBusy
  /-- Raised by `storeDst` and `loadDst` outside the host's allocation: no such pixel. Safe. -/
  | outsideAllocation
  /-- Raised by `loadDst` of a pixel nothing has written since it was allocated. Safe. -/
  | dstUnwritten
  deriving DecidableEq, Repr

/-- Why a command has no meaning. -/
inductive Refusal where
  /-- Raised by `exec` for a command not modelled yet; no arm does. Safe. -/
  | notModelled (mnemonic : String)
  /-- Raised by RENDER of a nonempty image without a destination allocation of 4W × 4H (R184): U3 says to
  refuse it. Safe. -/
  | destinationNotAllocated
  deriving DecidableEq, Repr

/-- The machine right after reset: R23's column "reset value", with `GenTile` of the reset configuration
(R107, R180). The images, the allocation and the agenda are outside the block (assumption logs 1 to 4). -/
def State.reset : State where
  maskStrength := params.maskDefault
  gapStrength := params.gapDefault
  width := 0
  height := 0
  tile := genTile params params.maskDefault params.gapDefault
  curRow := 0
  curCol := 0
  prev := black
  curPix := black
  sx := 0
  sy := 0
  sj := 0
  si := 0
  busy := false
  done := false
  err := false
  errCode := .noError
  result := 0
  src := []
  dst := []
  allocWidth := scale * (2 ^ dimBits - 1)
  allocHeight := scale * (2 ^ dimBits - 1)
  dstBefore := []
  agenda := []
  delivered := []
  draws := 0

/-- How a step or a command ends. -/
abbrev Result := Host.Outcome State Fault Refusal

end Sys2Proof.Machine
end

