-- ==== Sys2Proof/Machine/Flags.lean ====
section
/-! DEFINITION. The status bits BUSY, DONE, ERR and ERRCODE (spec/10_state.md R27, R29): how they are read, and the
three ways a command or the engine changes BUSY and DONE. `record_error` is in Machine/Ops.lean. -/

namespace Sys2Proof.Machine

/-- The code of R160, as held in STATUS[11:8]. -/
def ErrCode.code : ErrCode → BitVec 4
  | .noError => 0
  | .illegalOpcode => 1
  | .reservedBits => 2
  | .range => 3
  | .busyReject => 4

/-- `STATUS = zext_32(ERRCODE ++ 0b00000 ++ ERR ++ DONE ++ BUSY)` (R29). -/
def State.statusWord (s : State) : Word :=
  0#20 ++ s.errCode.code ++ 0#5 ++ BitVec.ofBool s.err ++ BitVec.ofBool s.done ++ BitVec.ofBool s.busy

/-- BUSY becomes 1; the destination as it now stands is what an abort may restore (R130, R181). -/
def State.beginBusy (s : State) : State := { s with busy := true, dstBefore := s.dst }

/-- A render completes: `BUSY <- 0; DONE <- 1` (R131, R132). -/
def State.finishRender (s : State) : State := { s with busy := false, done := true, dstBefore := [] }

/-- `DONE <- 0; ERR <- 0; ERRCODE <- 0` (R150): the host's acknowledgement of an error (R168). -/
def State.clearFlags (s : State) : State := { s with done := false, err := false, errCode := .noError }

end Sys2Proof.Machine
end

