-- ==== Sys2Proof/Machine/Ops.lean ====
section
/-! DEFINITION. The named operations the commands and the engine share: the pixel spaces, the error primitive, the
busy check, loading the tile, the mask cursor, and what reads deliver. -/

namespace Sys2Proof

/-- Raster order (R60): by row, then by column. -/
def Coord.before (a b : Coord) : Bool := decide (a.y < b.y) || (decide (a.y = b.y) && decide (a.x < b.x))

/-- Inside a `w × h` pixel space (R37). -/
def Coord.inside (a : Coord) (w h : Nat) : Bool := decide (a.x < w) && decide (a.y < h)

end Sys2Proof

namespace Sys2Proof.Machine

/-! ### Pixel spaces (R37, R56) -/

/-- The canonical form: coordinates strictly rising in raster order. -/
def Memory.wf : Memory → Bool
  | [] => true
  | [_] => true
  | a :: b :: m => a.1.before b.1 && Memory.wf (b :: m)

/-- The Pixel listed at a coordinate. -/
def Memory.lookup : Memory → Coord → Option Pixel
  | [], _ => none
  | (k, p) :: m, c => if k = c then some p else Memory.lookup m c

/-- List `p` at `c`. -/
def Memory.insert : Memory → Coord → Pixel → Memory
  | [], c, p => [(c, p)]
  | (k, q) :: m, c, p =>
    if c.before k then (c, p) :: (k, q) :: m
    else if k = c then (c, p) :: m
    else (k, q) :: Memory.insert m c p

/-- List nothing at `c`. -/
def Memory.erase (m : Memory) (c : Coord) : Memory := m.filter fun cell => cell.1 ≠ c

/-- Make `c` hold what `o` says. -/
def Memory.put (m : Memory) (c : Coord) (o : Option Pixel) : Memory :=
  match o with
  | some p => m.insert c p
  | none => m.erase c

/-- The canonical form of the source image: nothing is listed that an unlisted coordinate reads as. -/
def Memory.srcWf (m : Memory) : Bool := m.wf && m.all fun cell => cell.2 ≠ black

/-- `SrcRead(x, y)` (R57): a total function of the coordinate. -/
def State.srcRead (s : State) (x y : Nat) : Pixel := (s.src.lookup ⟨x, y⟩).getD black

/-- Put one pixel into a source image, keeping `Memory.srcWf`. -/
def Memory.storeSrc (m : Memory) (c : Coord) (p : Pixel) : Memory :=
  m.put c (if p = black then none else some p)

/-- `DstWrite(X, Y, p)` (R58). -/
def State.dstWrite (s : State) (c : Coord) (p : Pixel) : State := { s with dst := s.dst.insert c p }

/-- The launch premise of R184: the host's allocation accepts every coordinate of `[0, 4W) × [0, 4H)`. -/
def State.dstAllocated (s : State) : Bool :=
  decide (scale * s.width.toNat ≤ s.allocWidth) && decide (scale * s.height.toNat ≤ s.allocHeight)

/-! ### Errors (R161, R162, R163) -/

/-- `record_error(code)` (R162), the block's one error primitive. No state is saved, no mode changes and
control goes nowhere (R167); the return is CLEAR_STATUS (R168, `State.clearFlags`). -/
def recordError (e : ErrCode) (s : State) : State :=
  { s with errCode := if s.err then s.errCode else e, err := true }

/-- The busy check of R78 and R163: while BUSY the command is rejected with BUSY_REJECT. -/
def whenIdle (s : State) (k : State → Result) : Result :=
  if s.busy then .next (recordError .busyReject s) else k s

/-! ### Tile and cursor -/

/-- `LoadTile` (R108). -/
def loadTile (c : Config) (s : State) : State := { s with tile := genTile c s.maskStrength s.gapStrength }

/-- `CUR_COL <- (CUR_COL + 1) mod 6` (R127). -/
def nextCol (col : TileCol) : TileCol := Fin.ofNat tileCols (col.val + 1)

/-- `CUR_ROW <- (CUR_ROW + 1) mod 8` (R127). -/
def nextRow (row : TileRow) : TileRow := Fin.ofNat tileRows (row.val + 1)

/-! ### What reads deliver -/

/-- The host receives `d`. -/
def State.deliver (s : State) (d : Delivered) : State := { s with delivered := d :: s.delivered }

/-- One free value has been drawn. -/
def State.drawn (s : State) : State := { s with draws := s.draws + 1 }

end Sys2Proof.Machine
end

