-- ==== Sys2Proof/Machine/Configure.lean ====
section
/-! DEFINITION. The configuration commands (spec/40_configuration.md R90 to R94). None touches TILE, the cursor,
PREV, the sequencer or a pixel port. -/

namespace Sys2Proof.Machine

/-- NOP (R90). -/
def execNop (s : State) : Result := whenIdle s fun s => .next s

/-- SET_MASK_STRENGTH (R91). -/
def execSetMaskStrength (imm8 : BitVec 8) (s : State) : Result :=
  whenIdle s fun s => .next { s with maskStrength := imm8 }

/-- SET_GAP_STRENGTH (R92). -/
def execSetGapStrength (imm8 : BitVec 8) (s : State) : Result :=
  whenIdle s fun s => .next { s with gapStrength := imm8 }

/-- SET_WIDTH (R93). -/
def execSetWidth (imm16 : BitVec 16) (s : State) : Result :=
  whenIdle s fun s => .next { s with width := imm16 }

/-- SET_HEIGHT (R94). -/
def execSetHeight (imm16 : BitVec 16) (s : State) : Result :=
  whenIdle s fun s => .next { s with height := imm16 }

end Sys2Proof.Machine
end

