-- ==== Sys2Proof/Machine/Operands.lean ====
section
/-! DEFINITION. Where operands come from: the tile index of READ_LUT (spec/30_encoding.md R73, R77) and what the
engine's step reads of the state (spec/42_pixel_expander.md R122, R126). -/

namespace Sys2Proof.Machine

/-- ROW: every value is legal (R73). -/
def rowOperand (row : BitVec 3) : TileRow := Fin.ofNat tileRows row.toNat

/-- COL: 0..5; none for 6 and 7 (R73, R77). -/
def colOperand? (col : BitVec 3) : Option TileCol :=
  if h : col.toNat < tileCols then some ⟨col.toNat, h⟩ else none

/-- The tile cell under the cursor, as it stands before the advance (R122). -/
def State.cell (s : State) : Pixel := s.tile.cell s.curRow s.curCol

/-- `(4*SX + SI, 4*SY + SJ)` (R126): the coordinate the engine's next step writes. -/
def State.dstCoord (s : State) : Coord :=
  ⟨scale * s.sx.toNat + s.si.val, scale * s.sy.toNat + s.sj.val⟩

end Sys2Proof.Machine
end

