-- ==== Sys2Proof/Machine/Expander.lean ====
section
/-! DEFINITION. The Pixel Expander: the datapath of one sub-pixel (spec/42_pixel_expander.md R120 to R124), the
engine's step (R127 to R131), and the closed form of a rendered pixel (R133). -/

namespace Sys2Proof.Machine

/-! ### Datapath, per channel, on naturals -/

/-- Stage a, horizontal blur (R120). -/
def blur (i : Sub) (cur prv : Nat) : Nat :=
  match i with
  | 0 => (cur + prv) / 2
  | 1 => (3 * cur + prv) / 4
  | 2 | 3 => cur

/-- Stage b, scanline gap (R121). -/
def gap (c : Config) (j : Sub) (v : Nat) : Nat :=
  match j with
  | 0 => satSub v c.gapTopSub
  | 1 | 2 => v
  | 3 => satSub v c.gapBotSub

/-- The boosted value `b` of stage d (R123), clamped only under the alternative reading U9. -/
def boosted (c : Config) (v : Nat) : Nat :=
  if c.boostPreclamp then clamp255 (v + v / c.boostDiv) else v + v / c.boostDiv

/-- Stage d, brightness boost and normalisation (R123). -/
def boost (c : Config) (v m : Nat) : Nat := clamp255 (boosted c v * m / c.normDiv)

/-- One channel through stages a to d (R124). -/
def subChannel (c : Config) (i j : Sub) (cur prv m : Byte) : Nat :=
  boost c (gap c j (blur i cur.toNat prv.toNat)) m.toNat

/-- `SubPixel(i, j, CURPIX, PREV, cell)` (R124): three independent lanes (R125). -/
def subPixel (c : Config) (i j : Sub) (cur prv cell : Pixel) : Pixel :=
  Pixel.ofChannels fun k => subChannel c i j (cur.ch k) (prv.ch k) (cell.ch k)

/-! ### The engine's step (R131) -/

/-- At the first sub-pixel of a source pixel: PREV is BLACK at a row start (R128), and the source pixel is
latched (R129). Under U10 a row start also restores the cursor row of the render's start, 0. -/
def State.latchSource (c : Config) (s : State) : State :=
  if s.si = 0 ∧ s.sj = 0 then
    { s with
      prev := if s.sx = 0 then black else s.prev
      curPix := s.srcRead s.sx.toNat s.sy.toNat
      curRow := if c.rowRestart ∧ s.sx = 0 then 0 else s.curRow }
  else s

/-- The sub-pixel is computed and written (R122, R124, R126). -/
def State.emit (c : Config) (s : State) : State :=
  s.dstWrite s.dstCoord (subPixel c s.si s.sj s.curPix s.prev s.cell)

/-- After the last sub-pixel of a source pixel: the next pixel of the row, the next row, or the end (R131,
R132). The comparisons are exact (R10). -/
def State.nextPixel (s : State) : State :=
  if s.sx.toNat + 1 < s.width.toNat then { s with sx := s.sx + 1 }
  else if s.sy.toNat + 1 = s.height.toNat then { s with sx := 0, sy := s.sy + 1 }.finishRender
  else { s with sx := 0, sy := s.sy + 1 }

/-- The cursor and the sequencer move on (R127, R128, R131). -/
def State.advance (s : State) : State :=
  if s.si.val < 3 then { s with curCol := nextCol s.curCol, si := Fin.ofNat scale (s.si.val + 1) }
  else if s.sj.val < 3 then
    { s with curCol := nextCol s.curCol, si := 0, curRow := nextRow s.curRow, sj := Fin.ofNat scale (s.sj.val + 1) }
  else
    { s with curCol := nextCol s.curCol, si := 0, curRow := nextRow s.curRow, sj := 0, prev := s.curPix }.nextPixel

/-- The engine's one step while BUSY (R131); it raises no error (R165). -/
def engineStep (c : Config) (s : State) : State := ((s.latchSource c).emit c).advance

/-! ### Closed form (R133) -/

/-- The left neighbour of source pixel `(x, y)`: BLACK at column 0 (R128, R133). -/
def State.leftOf (s : State) (x y : Nat) : Pixel := if x = 0 then black else s.srcRead (x - 1) y

/-- The cursor row at sub-row `j` of source pixel `(x, y)` (R133, R134; under U10 counted within the row). -/
def cursorRowAt (c : Config) (w x y j : Nat) : TileRow :=
  Fin.ofNat tileRows (4 * (if c.rowRestart then x else y * w + x) + j)

/-- The cursor column at sub-pixel `(i, j)` of source pixel `(x, y)` (R133, R134). -/
def cursorColAt (w x y j i : Nat) : TileCol := Fin.ofNat tileCols (16 * (y * w + x) + 4 * j + i)

/-- `Dst(X, Y)` of the render that the configuration, dimensions and source describe (R133). -/
def State.rendered (c : Config) (s : State) (a : Coord) : Pixel :=
  let x := a.x / scale
  let i := a.x % scale
  let y := a.y / scale
  let j := a.y % scale
  let cell := (genTile c s.maskStrength s.gapStrength).cell (cursorRowAt c s.width.toNat x y j)
    (cursorColAt s.width.toNat x y j i)
  subPixel c (Fin.ofNat scale i) (Fin.ofNat scale j) (s.srcRead x y) (s.leftOf x y) cell

/-- The destination region `[0, 4*WIDTH) × [0, 4*HEIGHT)` (R181, R184). -/
def State.inRegion (s : State) (a : Coord) : Bool := a.inside (scale * s.width.toNat) (scale * s.height.toNat)

end Sys2Proof.Machine
end

