-- ==== Sys2Proof/Machine/Control.lean ====
section
/-! DEFINITION. Reset with abort (spec/70_reset_and_hazards.md R180, R181) and the control commands
(spec/43_control.md R150, R151). -/

namespace Sys2Proof.Machine

/-- Every coordinate of `[0, w) × [0, h)`, in raster order. -/
def regionCoords (w h : Nat) : List Coord :=
  (List.range h).flatMap fun y => (List.range w).map fun x => ⟨x, y⟩

/-- What an abort leaves at one pixel of the region (R181, U2): the rendered or the prior value, a free
draw. -/
def State.abortedPixel (c : Config) (s : State) (a : Coord) : Option Pixel :=
  if Config.abortTakesRendered s.draws a then some (s.rendered c a) else s.dstBefore.lookup a

/-- The abort of a running render (R181): every pixel of the region is drawn, no other changes. -/
def abortRender (c : Config) (s : State) : State :=
  { s with
    dst := (regionCoords (scale * s.width.toNat) (scale * s.height.toNat)).foldl
      (fun m a => m.put a (s.abortedPixel c a)) s.dst
    draws := s.draws + 1 }

/-- Steps 2 and 3 of R180: the block's registers take their reset values; what is outside the block stays. -/
def resetRegisters (s : State) : State :=
  { State.reset with
    src := s.src
    dst := s.dst
    allocWidth := s.allocWidth
    allocHeight := s.allocHeight
    agenda := s.agenda
    delivered := s.delivered
    draws := s.draws }

/-- Reset (R180), by the reset input or by SOFT_RESET. -/
def resetBlock (c : Config) (s : State) : State :=
  resetRegisters (if s.busy then abortRender c s else s)

/-- CLEAR_STATUS (R150). -/
def execClearStatus (s : State) : Result := whenIdle s fun s => .next s.clearFlags

/-- SOFT_RESET (R151): the one command accepted while BUSY. -/
def execSoftReset (s : State) : Result := .next (resetBlock params s)

end Sys2Proof.Machine
end

