-- ==== Sys2Proof/Machine/Lut.lean ====
section
/-! DEFINITION. The mask-table commands (spec/41_mask_table.md R109, R110). -/

namespace Sys2Proof.Machine

/-- GEN_LUT (R109). -/
def execGenLut (s : State) : Result := whenIdle s fun s => .next (loadTile params s)

/-- READ_LUT (R110): RESULT receives the packed cell; COL 6 or 7 is RANGE and leaves RESULT (R77). -/
def execReadLut (row col : BitVec 3) (s : State) : Result :=
  whenIdle s fun s =>
    match colOperand? col with
    | some c => .next { s with result := (s.tile.cell (rowOperand row) c).pack }
    | none => .next (recordError .range s)

end Sys2Proof.Machine
end

