-- ==== Sys2Proof/Machine/Render.lean ====
section
/-! DEFINITION. RENDER (spec/42_pixel_expander.md R130). The engine's steps are in Machine/Expander.lean. -/

namespace Sys2Proof.Machine

/-- R130's start actions before its case split: tile, cursor, PREV, sequencer, DONE. -/
def State.prepareRender (c : Config) (s : State) : State :=
  { loadTile c s with
    curRow := 0
    curCol := 0
    prev := black
    sx := 0
    sy := 0
    sj := 0
    si := 0
    done := false }

/-- RENDER accepted (R130): an empty image completes at once; a nonempty one starts the engine, and is
refused where the launch premise of R184 does not hold (U3). -/
def startRender (c : Config) (s : State) : Result :=
  if s.width = 0 ∨ s.height = 0 then
    .next { s.prepareRender c with sy := s.height, done := true }
  else if s.dstAllocated then .next (s.prepareRender c).beginBusy
  else .refused .destinationNotAllocated

/-- RENDER (R130). -/
def execRender (s : State) : Result := whenIdle s fun s => startRender params s

end Sys2Proof.Machine
end

