-- ==== Sys2Proof/Machine/Dispatch.lean ====
section
/-! DEFINITION. `execute(opc, w)` of spec/30_encoding.md R78: one arm per command. -/

namespace Sys2Proof.Machine

def exec (i : Instr) (s : State) : Host.Outcome State Fault Refusal :=
  match i with
  | .nop => Sys2Proof.Machine.execNop s
  | .setMaskStrength imm8 => Sys2Proof.Machine.execSetMaskStrength imm8 s
  | .setGapStrength imm8 => Sys2Proof.Machine.execSetGapStrength imm8 s
  | .setWidth imm16 => Sys2Proof.Machine.execSetWidth imm16 s
  | .setHeight imm16 => Sys2Proof.Machine.execSetHeight imm16 s
  | .genLut => Sys2Proof.Machine.execGenLut s
  | .readLut row col => Sys2Proof.Machine.execReadLut row col s
  | .render => Sys2Proof.Machine.execRender s
  | .clearStatus => Sys2Proof.Machine.execClearStatus s
  | .softReset => Sys2Proof.Machine.execSoftReset s

end Sys2Proof.Machine
end

