-- ==== Sys2Proof/Machine/Window.lean ====
section
/-! DEFINITION. The host's side: the register window (spec/10_state.md R28 to R36, spec/20_memory.md R50 to R55),
a CMD write (spec/30_encoding.md R78), and every other event. -/

namespace Sys2Proof.Machine

/-! ### Registers (R28) -/

/-- The registers of the window. -/
inductive Reg where
  | cmd
  | status
  | result
  | config
  | dims
  | cursor
  | prev
  | pos
  | reserved
  deriving DecidableEq, Repr

/-- R28's table: the register at an aligned offset inside the window. -/
def Reg.ofOffset (off : Nat) : Reg :=
  match off with
  | 0x00 => .cmd
  | 0x04 => .status
  | 0x08 => .result
  | 0x0C => .config
  | 0x10 => .dims
  | 0x14 => .cursor
  | 0x18 => .prev
  | 0x1C => .pos
  | _ => .reserved

/-- The exact contents of a register (R29 to R36); CMD and reserved offsets read 0. -/
def State.regWord (s : State) : Reg → Word
  | .cmd => 0
  | .status => s.statusWord
  | .result => s.result
  | .config => 0#16 ++ s.gapStrength ++ s.maskStrength
  | .dims => s.height ++ s.width
  | .cursor => 0#21 ++ BitVec.ofNat 3 s.curCol.val ++ 0#5 ++ BitVec.ofNat 3 s.curRow.val
  | .prev => s.prev.pack
  | .pos => s.sy ++ s.sx
  | .reserved => 0

/-- Whether a read is unspecified while BUSY (R33, R34, R35, U1). -/
def Reg.hiddenWhileBusy : Reg → Bool
  | .cursor => true
  | .prev => true
  | .pos => true
  | .cmd => false
  | .status => false
  | .result => false
  | .config => false
  | .dims => false
  | .reserved => false

/-- `RegRead` (R52, R53): the host receives the register's word, or a free word where R33 to R35 leave it
unspecified. Nothing in the block changes (R36). -/
def regRead (r : Reg) (s : State) : State :=
  if s.busy && r.hiddenWhileBusy then (s.deliver (.word (Config.busyRead s.draws))).drawn
  else s.deliver (.word (s.regWord r))

/-! ### Commands (R78) -/

/-- The error code a rejected word records (R160). -/
def rejectCode : Reject → ErrCode
  | .illegalOpcode => .illegalOpcode
  | .reservedBits => .reservedBits
  | .range => .range

/-- A write of `w` to CMD: R78's procedure, in one step. -/
def cmdWrite (w : Word) (s : State) : Result :=
  if s.busy ∧ opcField w ≠ Op.softReset.opc then .next (recordError .busyReject s)
  else
    match decodeWord w with
    | .error r => .next (recordError (rejectCode r) s)
    | .ok i => exec i s

/-- `RegWrite` (R12): CMD takes a command; every other write has no effect (R36). -/
def regWrite (r : Reg) (w : Word) (s : State) : Result :=
  match r with
  | .cmd => cmdWrite w s
  | .status => .next s
  | .result => .next s
  | .config => .next s
  | .dims => .next s
  | .cursor => .next s
  | .prev => .next s
  | .pos => .next s
  | .reserved => .next s

/-! ### Bus accesses (R50, R55) -/

/-- The byte offset from REG_BASE; none below it. -/
def BusAddr.offset? : BusAddr → Option Nat
  | .window off => some off
  | .absolute addr => if Config.regBase ≤ addr then some (addr - Config.regBase) else none

/-- The register an access of `bytes` bytes reaches: only one aligned 32-bit word inside the window is
admitted (R50). -/
def admittedReg? (addr : BusAddr) (bytes : Nat) : Option Reg :=
  match addr.offset? with
  | none => none
  | some off => if bytes = 4 ∧ off % 4 = 0 ∧ off < regWindow then some (Reg.ofOffset off) else none

/-- A host read of the window (R50, R52). -/
def busRead (addr : BusAddr) (bytes : Nat) (s : State) : Result :=
  match admittedReg? addr bytes with
  | none => .fault .busError
  | some r => .next (regRead r s)

/-- A host write to the window (R50, R51, R52). -/
def busWrite (addr : BusAddr) (data : List Byte) (s : State) : Result :=
  match admittedReg? addr data.length, wordOfBytes? data with
  | some r, some w => regWrite r w s
  | _, _ => .fault .busError

/-! ### The host's own images (R183 to R187) -/

/-- A host move on its images; there is none while BUSY (R186, U4). -/
def hostMove (s : State) (k : State → Result) : Result :=
  if s.busy then .fault .hostMoveWhileBusy else k s

/-- The host puts a pixel into its source image (R183, R185). -/
def hostStoreSrc (a : Coord) (p : Pixel) (s : State) : Result :=
  hostMove s fun s => .next { s with src := s.src.storeSrc a p }

/-- The host allocates a new destination, in which nothing is written yet (R183, R184). -/
def hostAllocDst (w h : Nat) (s : State) : Result :=
  hostMove s fun s => .next { s with dst := [], allocWidth := w, allocHeight := h }

/-- The host writes a pixel of its destination. -/
def hostStoreDst (a : Coord) (p : Pixel) (s : State) : Result :=
  hostMove s fun s =>
    if a.inside s.allocWidth s.allocHeight then .next (s.dstWrite a p) else .fault .outsideAllocation

/-- The host receives a destination pixel. -/
def State.deliverPixel (s : State) (o : Option Pixel) : Result :=
  match o with
  | some p => .next (s.deliver (.pixel p))
  | none => .fault .dstUnwritten

/-- The host reads a destination pixel (R183). During a render a pixel of the region may or may not hold its
new value (R187), whichever the draw says. -/
def hostLoadDst (a : Coord) (s : State) : Result :=
  if a.inside s.allocWidth s.allocHeight then
    if s.busy && s.inRegion a then
      s.drawn.deliverPixel
        (if Config.earlyLoadSeesRendered s.draws a then some (s.rendered params a) else s.dstBefore.lookup a)
    else s.deliverPixel (s.dst.lookup a)
  else .fault .outsideAllocation

/-! ### Events (R20) -/

/-- The engine's turn: it has a step exactly while BUSY (R20, R131). -/
def engineTurn (s : State) : State := if s.busy then engineStep params s else s

/-- What an event does, once taken from the agenda. -/
def runEvent (e : Event) (s : State) : Result :=
  match e with
  | .engineStep => .next (engineTurn s)
  | .busRead addr bytes => busRead addr bytes s
  | .busWrite addr data => busWrite addr data s
  | .waitIdle =>
    if s.busy then .next (engineStep params { s with agenda := .waitIdle :: s.agenda })
    else .next (regRead .status s)
  | .resetInput => .next (resetBlock params s)
  | .storeSrc a p => hostStoreSrc a p s
  | .allocDst w h => hostAllocDst w h s
  | .storeDst a p => hostStoreDst a p s
  | .loadDst a => hostLoadDst a s

/-- Take the next event from the agenda and run it. With none left the engine runs on alone (R190), and an
idle block holds all its state (R174). -/
def takeStep (s : State) : Result :=
  match s.agenda with
  | [] => .next (engineTurn s)
  | e :: rest => runEvent e { s with agenda := rest }

/-- The host's next event: write the word `w` to CMD (R70, R78). -/
def cmdEvent (w : Word) : Event := .busWrite (.window 0x00) (wordBytes w)

end Sys2Proof.Machine
end

