-- ==== Sys2Proof/Machine/Step.lean ====
section
/-! DEFINITION. One step of the machine, and where its next command comes from. -/

namespace Sys2Proof.Machine

/-- One step: exactly one agent moves (spec/10_state.md R20). -/
def step (s : State) : Host.Outcome State Fault Refusal := takeStep s

/-- The host's next event becomes the write of the table word `w` to CMD: the block fetches nothing (R22), so
this is where its next command comes from. Assumption log 4. -/
def State.withFetchWord (s : State) (nbits w : Nat) : State :=
  { s with agenda := cmdEvent (BitVec.ofNat 32 (w % 2 ^ nbits)) :: s.agenda }

end Sys2Proof.Machine
end

