-- ==== Sys2Proof/Machine/Assembler.lean ====
section
/-! DEFINITION. The assembler syntax and the pseudo-instructions (spec/30_encoding.md R79, R80): a command program
as text, and the host events it stands for. It is a notation, no part of the hardware (D32). -/

namespace Sys2Proof.Machine

/-! ### Lines -/

/-- One line of a command program, its operands as the numbers written (R79, R80). -/
inductive AsmLine where
  | nop
  | setMaskStrength (imm8 : Nat)
  | setGapStrength (imm8 : Nat)
  | setWidth (imm16 : Nat)
  | setHeight (imm16 : Nat)
  | genLut
  | readLut (row col : Nat)
  | render
  | clearStatus
  | softReset
  /-- `.word <u32>` -/
  | word (w : Nat)
  /-- `LOAD <name>` -/
  | load (r : Reg)
  /-- `SET_DIMS w, h` -/
  | setDims (w h : Nat)
  /-- `CONFIG m, g` -/
  | config (m g : Nat)
  /-- `WAIT_IDLE` -/
  | waitIdle
  /-- `RUN` -/
  | run
  deriving DecidableEq, Repr

/-- An operand that fits its field of `n` bits; the assembler refuses any other (R79). -/
def asmField (n v : Nat) : Option (BitVec n) := if v < 2 ^ n then some (BitVec.ofNat n v) else none

/-- The offset of a named register (R28). -/
def Reg.offset : Reg → Nat
  | .cmd => 0x00
  | .status => 0x04
  | .result => 0x08
  | .config => 0x0C
  | .dims => 0x10
  | .cursor => 0x14
  | .prev => 0x18
  | .pos => 0x1C
  | .reserved => 0x20

/-- The write of one command to CMD. -/
def commandEvent (i : Instr) : Event := cmdEvent (encode i)

/-- The events a line stands for; none where the assembler refuses an operand (R79, R80). -/
def AsmLine.assemble : AsmLine → Option (List Event)
  | .nop => some [commandEvent .nop]
  | .setMaskStrength v => (asmField 8 v).map fun m => [commandEvent (.setMaskStrength m)]
  | .setGapStrength v => (asmField 8 v).map fun g => [commandEvent (.setGapStrength g)]
  | .setWidth v => (asmField 16 v).map fun w => [commandEvent (.setWidth w)]
  | .setHeight v => (asmField 16 v).map fun h => [commandEvent (.setHeight h)]
  | .genLut => some [commandEvent .genLut]
  | .readLut row col =>
    match asmField 3 row, asmField 3 col with
    | some r, some c => if (Instr.readLut r c).wf then some [commandEvent (.readLut r c)] else none
    | _, _ => none
  | .render => some [commandEvent .render]
  | .clearStatus => some [commandEvent .clearStatus]
  | .softReset => some [commandEvent .softReset]
  | .word v => (asmField 32 v).map fun w => [cmdEvent w]
  | .load r => some [.busRead (.window r.offset) 4]
  | .setDims w h =>
    match asmField 16 w, asmField 16 h with
    | some w, some h => some [commandEvent (.setWidth w), commandEvent (.setHeight h)]
    | _, _ => none
  | .config m g =>
    match asmField 8 m, asmField 8 g with
    | some m, some g =>
      some [commandEvent (.setMaskStrength m), commandEvent (.setGapStrength g), commandEvent .genLut]
    | _, _ => none
  | .waitIdle => some [.waitIdle]
  | .run => some [commandEvent .render, .waitIdle]

/-! ### Text -/

/-- A blank character inside a line. -/
def isBlank (ch : Char) : Bool := ch == ' ' || ch == '\t' || ch == '\r'

/-- A text without blanks at either end. -/
def trimBlanks (t : List Char) : List Char := ((t.dropWhile isBlank).reverse.dropWhile isBlank).reverse

/-- The value of a digit in base 16. -/
def digitValue? (ch : Char) : Option Nat :=
  if '0' ≤ ch ∧ ch ≤ '9' then some (ch.toNat - '0'.toNat)
  else if 'a' ≤ ch ∧ ch ≤ 'f' then some (ch.toNat - 'a'.toNat + 10)
  else if 'A' ≤ ch ∧ ch ≤ 'F' then some (ch.toNat - 'A'.toNat + 10)
  else none

/-- The number `acc` with the digits `t` appended, in base `base`. -/
def digitsFrom? (base : Nat) (acc : Nat) : List Char → Option Nat
  | [] => some acc
  | ch :: t =>
    match digitValue? ch with
    | some d => if d < base then digitsFrom? base (acc * base + d) t else none
    | none => none

/-- A number: decimal, or hexadecimal with a `0x` prefix (R79). -/
def number? (t : List Char) : Option Nat :=
  match t with
  | [] => none
  | ['0', 'x'] => none
  | '0' :: 'x' :: ds => digitsFrom? 16 0 ds
  | ds => digitsFrom? 10 0 ds

/-- The numbers of an operand list separated by commas; no text, no operand (R79). -/
def operands? (t : List Char) : Option (List Nat) :=
  if t = [] then some []
  else ((t.splitOn ',').map fun o => number? (trimBlanks o)).foldr
    (fun o acc => match o, acc with | some n, some ns => some (n :: ns) | _, _ => none) (some [])

/-- The registers a LOAD may name (R28, R79). -/
def regNames : List (List Char × Reg) :=
  [("CMD".toList, .cmd), ("STATUS".toList, .status), ("RESULT".toList, .result), ("CONFIG".toList, .config),
    ("DIMS".toList, .dims), ("CURSOR".toList, .cursor), ("PREV".toList, .prev), ("POS".toList, .pos)]

/-- The line of a mnemonic that takes no operand. -/
def plainLines : List (List Char × AsmLine) :=
  [("NOP".toList, .nop), ("GEN_LUT".toList, .genLut), ("RENDER".toList, .render),
    ("CLEAR_STATUS".toList, .clearStatus), ("SOFT_RESET".toList, .softReset),
    ("WAIT_IDLE".toList, .waitIdle), ("RUN".toList, .run)]

/-- The line of a mnemonic that takes one number. -/
def unaryLines : List (List Char × (Nat → AsmLine)) :=
  [("SET_MASK_STRENGTH".toList, .setMaskStrength), ("SET_GAP_STRENGTH".toList, .setGapStrength),
    ("SET_WIDTH".toList, .setWidth), ("SET_HEIGHT".toList, .setHeight), (".word".toList, .word)]

/-- The line of a mnemonic that takes two numbers. -/
def binaryLines : List (List Char × (Nat → Nat → AsmLine)) :=
  [("READ_LUT".toList, .readLut), ("SET_DIMS".toList, .setDims), ("CONFIG".toList, .config)]

/-- The entry of a table with this name. -/
def named? {α : Type} (table : List (List Char × α)) (name : List Char) : Option α :=
  (table.find? fun row => row.1 == name).map fun row => row.2

/-- The line that a mnemonic and its operand text stand for (R79). -/
def statement? (mnemonic operands : List Char) : Option AsmLine :=
  if mnemonic = "LOAD".toList then (named? regNames operands).map .load
  else
    match operands? operands with
    | some [] => named? plainLines mnemonic
    | some [a] => (named? unaryLines mnemonic).map fun f => f a
    | some [a, b] => (named? binaryLines mnemonic).map fun f => f a b
    | _ => none

/-- One line of text: the events it stands for, none of them for a line with only blanks and a comment
(`;` starts a comment, R79). -/
def assembleLine? (line : List Char) : Option (List Event) :=
  let text := trimBlanks (line.takeWhile (· ≠ ';'))
  if text = [] then some []
  else
    match statement? (text.takeWhile fun ch => !isBlank ch) (trimBlanks (text.dropWhile fun ch => !isBlank ch)) with
    | some l => l.assemble
    | none => none

/-- A command program: its lines in order (R79); none where a line is refused. -/
def assemble? (program : String) : Option (List Event) :=
  ((program.toList.splitOn '\n').map assembleLine?).foldr
    (fun o acc => match o, acc with | some es, some rest => some (es ++ rest) | _, _ => none) (some [])

end Sys2Proof.Machine
end

