-- ==== Sys2Proof/Safety.lean ====
section
/-! DEFINITION. What a good state is: the invariant every step keeps. While a render runs it says where the
render stands, by the closed forms of spec/42_pixel_expander.md R133 and R134. -/

namespace Sys2Proof.Machine

/-- The next event writes the word `w` to CMD. -/
def State.writesCommand (s : State) (w : Word) : Prop :=
  ∃ (addr : BusAddr) (data : List Byte) (rest : List Event),
    s.agenda = .busWrite addr data :: rest ∧ admittedReg? addr data.length = some .cmd ∧ wordOfBytes? data = some w

/-- The next event is the reset input. -/
def State.resetsNext (s : State) : Prop := ∃ rest : List Event, s.agenda = .resetInput :: rest

/-- The place of a destination coordinate in the order of the engine's writes (R60, R131), in an image of
width `w`. -/
def writeIndex (w : Nat) (a : Coord) : Nat :=
  16 * (a.y / scale * w + a.x / scale) + 4 * (a.y % scale) + a.x % scale

/-- How many steps the running render has taken (R131). -/
def State.stepsTaken (s : State) : Nat :=
  16 * (s.sy.toNat * s.width.toNat + s.sx.toNat) + 4 * s.sj.val + s.si.val

/-- The running render has already written this coordinate. -/
def State.written (s : State) (a : Coord) : Bool :=
  s.inRegion a && decide (writeIndex s.width.toNat a < s.stepsTaken)

/-- Where a running render stands. -/
structure Rendering (s : State) : Prop where
  /-- The sequencer is inside the image (R57, R58). -/
  sxInside : s.sx.toNat < s.width.toNat
  syInside : s.sy.toNat < s.height.toNat
  /-- The launch premise held at RENDER and still does (R184, R186). -/
  allocated : s.dstAllocated = true
  /-- The tile is constant for the whole render (R24, R64). -/
  tileCurrent : s.tile = genTile params s.maskStrength s.gapStrength
  /-- The cursor runs through the tile without a reset (R127, R134). -/
  rowContinues : s.curRow = cursorRowAt params s.width.toNat s.sx.toNat s.sy.toNat s.sj.val
  colContinues : s.curCol = cursorColAt s.width.toNat s.sx.toNat s.sy.toNat s.sj.val s.si.val
  /-- After its first sub-pixel the current source pixel is latched (R129). -/
  latched : ¬(s.si = 0 ∧ s.sj = 0) → s.curPix = s.srcRead s.sx.toNat s.sy.toNat
  /-- PREV is the left neighbour; only before the first sub-pixel of a row is it not yet BLACK (R128). -/
  leftKnown : ¬(s.si = 0 ∧ s.sj = 0 ∧ s.sx = 0) → s.prev = s.leftOf s.sx.toNat s.sy.toNat
  /-- What has been written holds its rendered value, all else its value before the render (R59, R133). -/
  dstProgress : ∀ a : Coord,
    s.dst.lookup a = if s.written a then some (s.rendered params a) else s.dstBefore.lookup a
  /-- DONE was cleared at RENDER (R130). -/
  notDone : s.done = false

/-- The invariant. -/
structure Inv (s : State) : Prop where
  /-- The images keep their canonical form. -/
  srcCanonical : s.src.srcWf = true
  dstCanonical : s.dst.wf = true
  beforeCanonical : s.dstBefore.wf = true
  /-- Nothing lies outside the host's allocation (R58, R184). -/
  dstInside : ∀ (a : Coord) (p : Pixel), s.dst.lookup a = some p → a.inside s.allocWidth s.allocHeight = true
  /-- RESULT is `pack(p)` of some Pixel (R23, R30). -/
  resultPacked : ∃ p : Pixel, s.result = p.pack
  /-- Only `LoadTile` writes TILE (R108). -/
  tileGenerated : ∃ mask gap : Byte, s.tile = genTile params mask gap
  /-- ERRCODE is 0 exactly while ERR is 0 (R160, R162). -/
  errPaired : s.errCode = .noError ↔ s.err = false
  /-- An idle block's sequencer stands at the start of a source row (R23, R130, R132). -/
  idlePosition : s.busy = false → s.sx = 0 ∧ s.sj = 0 ∧ s.si = 0 ∧ s.dstBefore = []
  /-- A busy block is where its render says it is. -/
  rendering : s.busy = true → Rendering s

end Sys2Proof.Machine
end

