-- ==== Sys2Proof/Certificates/Slice0/Obligations.lean ====
section
/-! DEFINITION. The statements for the provers. Each docstring names the rule of spec/ it formalises. -/

open Sys2Proof Sys2Proof.Machine

/-! ### Encoding -/

/-- R72 to R74, R51: the word of a well-formed command, laid out on the bus, decodes to that command, with
every operand at every value of its field. -/
def Obligations.DecodeEncodeReturnsCommand : Prop :=
  ∀ i : Instr, i.wf = true →
    decode (wordBytes (encode i)) = .ok i ∧ decodeTableWord 32 (encode i).toNat = some i

/-- R70 to R77: every word the decoder accepts is the encoding of the command it gives, so no bit of the word
is ignored, and that command is well formed. -/
def Obligations.AcceptedWordIsItsCommandsEncoding : Prop :=
  ∀ (w : Word) (i : Instr), decodeWord w = .ok i → i.wf = true ∧ encode i = w

/-- R74: words written out from the table decode to their commands (a sanity check of each row). -/
def Obligations.TableWordsDecode : Prop :=
  decodeTableWord 32 0x00000000 = some .nop ∧
  decodeTableWord 32 0x010000B4 = some (.setMaskStrength 180) ∧
  decodeTableWord 32 0x02000032 = some (.setGapStrength 50) ∧
  decodeTableWord 32 0x03000002 = some (.setWidth 2) ∧
  decodeTableWord 32 0x0400FFFE = some (.setHeight 65534) ∧
  decodeTableWord 32 0x10000000 = some .genLut ∧
  decodeTableWord 32 0x11000103 = some (.readLut 1 3) ∧
  decodeTableWord 32 0x20000000 = some .render ∧
  decodeTableWord 32 0xF0000000 = some .clearStatus ∧
  decodeTableWord 32 0xFF000000 = some .softReset

/-! ### A command write and the step -/

/-- R78 with R162, R164: the whole procedure of a write to CMD, its checks in the spec's order and its words
and masks as the spec writes them. -/
def Obligations.CommandWriteFollowsProcedure : Prop :=
  ∀ (w : Word) (s : State),
    let opc := w >>> 24
    let recorded : ErrCode → State := fun e => { s with err := true, errCode := if s.err then s.errCode else e }
    let rejectedBusy := s.busy = true ∧ opc ≠ 0xFF#32
    let assigned := opc ∈ [0x00#32, 0x01#32, 0x02#32, 0x03#32, 0x04#32, 0x10#32, 0x11#32, 0x20#32, 0xF0#32, 0xFF#32]
    let reservedZero : Word :=
      if opc = 0x01#32 ∨ opc = 0x02#32 then 0x00FFFF00#32
      else if opc = 0x03#32 ∨ opc = 0x04#32 then 0x00FF0000#32
      else if opc = 0x11#32 then 0x00FFF8F8#32
      else 0x00FFFFFF#32
    let outOfRange := opc = 0x11#32 ∧ 6 ≤ (w &&& 7#32).toNat
    (rejectedBusy → cmdWrite w s = .next (recorded .busyReject)) ∧
    (¬rejectedBusy → ¬assigned → cmdWrite w s = .next (recorded .illegalOpcode)) ∧
    (¬rejectedBusy → assigned → w &&& reservedZero ≠ 0 → cmdWrite w s = .next (recorded .reservedBits)) ∧
    (¬rejectedBusy → assigned → w &&& reservedZero = 0 → outOfRange → cmdWrite w s = .next (recorded .range)) ∧
    (¬rejectedBusy → assigned → w &&& reservedZero = 0 → ¬outOfRange →
      ∃ i : Instr, i.wf = true ∧ encode i = w ∧ cmdWrite w s = exec i s)

/-- R52, R78: where the next event writes a word to CMD, the step is that CMD write in the state whose agenda has lost
the event; where the word's bytes decode to a command, the step is exec of that command there; and the step after
`withFetchWord` runs exactly the word's command. The agenda and `withFetchWord` are the model's (assumption logs 3 and
4). -/
def Obligations.StepRunsDecodedCommand : Prop :=
  (∀ (s : State) (w : Word) (rest : List Event), s.agenda = .busWrite (.window 0x00) (wordBytes w) :: rest →
    step s = cmdWrite w { s with agenda := rest }) ∧
  (∀ (s : State) (w : Word) (rest : List Event) (i : Instr),
    s.agenda = .busWrite (.window 0x00) (wordBytes w) :: rest → decode (wordBytes w) = .ok i →
    step s = exec i { s with agenda := rest }) ∧
  (∀ (s : State) (i : Instr), i.wf = true → step (s.withFetchWord 32 (encode i).toNat) = exec i s)

/-! ### The register window -/

/-- R50: an access that is not 32 bits wide, aligned and inside the window has no step; an access that is, is
admitted. R51: a word's bytes stand in little-endian order. R55: a bus address stands for its offset from REG_BASE.
That such an access stops by name is the model's reading (assumption log 14), and absolute addresses over an open
REG_BASE are its choice (log 5). -/
def Obligations.OnlyAlignedWordAccessesAreAdmitted : Prop :=
  (∀ (s : State) (off n : Nat) (data : List Byte), ¬(n = 4 ∧ off % 4 = 0 ∧ off < 0x100) →
    busRead (.window off) n s = .fault .busError ∧
    (data.length = n → busWrite (.window off) data s = .fault .busError)) ∧
  (∀ (s : State) (off : Nat), off % 4 = 0 → off < 0x100 → ∃ t : State, busRead (.window off) 4 s = .next t) ∧
  (∀ (s : State) (off : Nat) (data : List Byte), off % 4 = 0 → 0 < off → off < 0x100 → data.length = 4 →
    ∃ t : State, busWrite (.window off) data s = .next t) ∧
  (∀ (s : State) (b0 b1 b2 b3 : Byte),
    busWrite (.window 0x00) [b0, b1, b2, b3] s = cmdWrite (b3 ++ b2 ++ b1 ++ b0) s) ∧
  (∀ (s : State) (addr n : Nat) (data : List Byte),
    busRead (.absolute addr) n s =
      (if Config.regBase ≤ addr then busRead (.window (addr - Config.regBase)) n s else .fault .busError) ∧
    busWrite (.absolute addr) data s =
      (if Config.regBase ≤ addr then busWrite (.window (addr - Config.regBase)) data s else .fault .busError))

/-- R36: a write to a read-only or reserved offset has no effect, CMD and reserved offsets read 0, and no read changes
anything in the block: it changes only the model's own record of what the host has received and its count of free
draws (assumption logs 6 and 11). -/
def Obligations.ReadsAndStrayWritesHaveNoEffect : Prop :=
  ∀ (s : State) (off : Nat), off % 4 = 0 → off < 0x100 →
    (∃ (v : Word) (n : Nat),
      busRead (.window off) 4 s = .next { s with delivered := .word v :: s.delivered, draws := n }) ∧
    (off = 0 ∨ 0x20 ≤ off → busRead (.window off) 4 s = .next { s with delivered := .word 0 :: s.delivered }) ∧
    (off ≠ 0 → ∀ w : Word, busWrite (.window off) (wordBytes w) s = .next s)

/-- R29 to R35: the contents of every register, as numbers. STATUS, RESULT, CONFIG and DIMS are exact at all times;
CURSOR, PREV and POS are exact while idle and a free word while BUSY (U1). The form of that free word,
`Config.busyRead` of a counted draw, is the model's choice (assumption log 6), and so is the record `delivered` (log
11). -/
def Obligations.RegistersReadAsLaidOut : Prop :=
  ∀ s : State,
    let received : Nat → State := fun v => { s with delivered := .word (BitVec.ofNat 32 v) :: s.delivered }
    let drawn : State :=
      { s with delivered := .word (Config.busyRead s.draws) :: s.delivered, draws := s.draws + 1 }
    let code : Nat :=
      match s.errCode with
      | .noError => 0
      | .illegalOpcode => 1
      | .reservedBits => 2
      | .range => 3
      | .busyReject => 4
    busRead (.window 0x04) 4 s =
      .next (received (s.busy.toNat + 2 * s.done.toNat + 4 * s.err.toNat + 256 * code)) ∧
    busRead (.window 0x08) 4 s = .next (received s.result.toNat) ∧
    busRead (.window 0x0C) 4 s = .next (received (s.maskStrength.toNat + 256 * s.gapStrength.toNat)) ∧
    busRead (.window 0x10) 4 s = .next (received (s.width.toNat + 65536 * s.height.toNat)) ∧
    (s.busy = false →
      busRead (.window 0x14) 4 s = .next (received (s.curRow.val + 256 * s.curCol.val)) ∧
      busRead (.window 0x18) 4 s =
        .next (received (s.prev.r.toNat + 256 * s.prev.g.toNat + 65536 * s.prev.b.toNat)) ∧
      busRead (.window 0x1C) 4 s = .next (received (s.sx.toNat + 65536 * s.sy.toNat))) ∧
    (s.busy = true →
      busRead (.window 0x14) 4 s = .next drawn ∧
      busRead (.window 0x18) 4 s = .next drawn ∧
      busRead (.window 0x1C) 4 s = .next drawn)

/-! ### Commands -/

/-- R90: on an idle block NOP leaves the state unchanged, and a word with its opcode and a reserved bit is rejected;
while BUSY every word with its opcode is rejected. -/
def Obligations.NopLeavesEverything : Prop :=
  ∀ s : State,
    let recorded : ErrCode → State := fun e => { s with err := true, errCode := if s.err then s.errCode else e }
    (s.busy = false →
      exec .nop s = .next s ∧ cmdWrite 0x00000000#32 s = .next s ∧
      ∀ w : Word, w >>> 24 = 0x00#32 → w ≠ 0x00000000#32 → cmdWrite w s = .next (recorded .reservedBits)) ∧
    (s.busy = true →
      exec .nop s = .next (recorded .busyReject) ∧
      ∀ w : Word, w >>> 24 = 0x00#32 → cmdWrite w s = .next (recorded .busyReject))

/-- R91 to R94: on an idle block each SET command loads its one register and changes nothing else; TILE among
the rest is not reloaded. The words are R74's. -/
def Obligations.SetCommandsLoadOneRegister : Prop :=
  ∀ (s : State) (imm8 : BitVec 8) (imm16 : BitVec 16), s.busy = false →
    (exec (.setMaskStrength imm8) s = .next { s with maskStrength := imm8 } ∧
      cmdWrite (0x01000000#32 + BitVec.ofNat 32 imm8.toNat) s = .next { s with maskStrength := imm8 }) ∧
    (exec (.setGapStrength imm8) s = .next { s with gapStrength := imm8 } ∧
      cmdWrite (0x02000000#32 + BitVec.ofNat 32 imm8.toNat) s = .next { s with gapStrength := imm8 }) ∧
    (exec (.setWidth imm16) s = .next { s with width := imm16 } ∧
      cmdWrite (0x03000000#32 + BitVec.ofNat 32 imm16.toNat) s = .next { s with width := imm16 }) ∧
    (exec (.setHeight imm16) s = .next { s with height := imm16 } ∧
      cmdWrite (0x04000000#32 + BitVec.ofNat 32 imm16.toNat) s = .next { s with height := imm16 })

/-- R109: on an idle block GEN_LUT loads TILE from the two strengths and changes nothing else; a second one
changes nothing; with strengths 255 and 0 every cell is (255,255,255). A word with its opcode and a reserved bit is
rejected, and so is every word with its opcode while BUSY. -/
def Obligations.GenLutReloadsTile : Prop :=
  ∀ s : State,
    let recorded : ErrCode → State := fun e => { s with err := true, errCode := if s.err then s.errCode else e }
    let t : State := { s with tile := genTile params s.maskStrength s.gapStrength }
    (s.busy = false →
      exec .genLut s = .next t ∧ cmdWrite 0x10000000#32 s = .next t ∧ exec .genLut t = .next t ∧
      (s.maskStrength = 255 → s.gapStrength = 0 →
        ∀ (r : TileRow) (c : TileCol), t.tile.cell r c = ⟨255, 255, 255⟩) ∧
      ∀ w : Word, w >>> 24 = 0x10#32 → w ≠ 0x10000000#32 → cmdWrite w s = .next (recorded .reservedBits)) ∧
    (s.busy = true →
      exec .genLut s = .next (recorded .busyReject) ∧
      ∀ w : Word, w >>> 24 = 0x10#32 → cmdWrite w s = .next (recorded .busyReject))

/-- R110: on an idle block READ_LUT puts the packed cell into RESULT and changes nothing else; with COL 6 or 7
it records RANGE, and RESULT is unchanged. Bits [31:24] of the packed cell are 0. A word with its opcode and a
reserved bit is rejected, and so is every word with its opcode while BUSY. -/
def Obligations.ReadLutDeliversCell : Prop :=
  ∀ (s : State) (row col : BitVec 3),
    let recorded : ErrCode → State := fun e => { s with err := true, errCode := if s.err then s.errCode else e }
    let word : Word := 0x11000000#32 + BitVec.ofNat 32 (256 * row.toNat + col.toNat)
    (s.busy = false →
      (∀ h : col.toNat < 6,
        let cell := s.tile.cell ⟨row.toNat, row.isLt⟩ ⟨col.toNat, h⟩
        let t : State :=
          { s with result := BitVec.ofNat 32 (cell.r.toNat + 256 * cell.g.toNat + 65536 * cell.b.toNat) }
        exec (.readLut row col) s = .next t ∧ cmdWrite word s = .next t ∧ t.result.toNat < 2 ^ 24) ∧
      (6 ≤ col.toNat →
        exec (.readLut row col) s = .next (recorded .range) ∧ cmdWrite word s = .next (recorded .range)) ∧
      ∀ w : Word, w >>> 24 = 0x11#32 → w &&& 0x00FFF8F8#32 ≠ 0 → cmdWrite w s = .next (recorded .reservedBits)) ∧
    (s.busy = true →
      exec (.readLut row col) s = .next (recorded .busyReject) ∧
      ∀ w : Word, w >>> 24 = 0x11#32 → cmdWrite w s = .next (recorded .busyReject))

/-- R130 for a nonempty image whose destination is allocated (R184): every start action, and nothing else. That an
allocation larger than the region will do is the model's reading (assumption log 16); `dstBefore` is its own copy of
the destination (log 11). -/
def Obligations.RenderStartsEngine : Prop :=
  ∀ s : State, s.busy = false → s.width ≠ 0 → s.height ≠ 0 →
    4 * s.width.toNat ≤ s.allocWidth → 4 * s.height.toNat ≤ s.allocHeight →
    let t : State :=
      { s with
        tile := genTile params s.maskStrength s.gapStrength
        curRow := 0
        curCol := 0
        prev := black
        sx := 0
        sy := 0
        sj := 0
        si := 0
        done := false
        busy := true
        dstBefore := s.dst }
    exec .render s = .next t ∧ cmdWrite 0x20000000#32 s = .next t

/-- R130 for an empty image: it completes at once, BUSY stays 0, no pixel port is used, and POS is `(0, HEIGHT)`. No
allocation is needed. -/
def Obligations.RenderOfEmptyImageCompletesAtOnce : Prop :=
  ∀ s : State, s.busy = false → s.width = 0 ∨ s.height = 0 →
    let t : State :=
      { s with
        tile := genTile params s.maskStrength s.gapStrength
        curRow := 0
        curCol := 0
        prev := black
        sx := 0
        sy := s.height
        sj := 0
        si := 0
        done := true }
    exec .render s = .next t ∧ cmdWrite 0x20000000#32 s = .next t

/-- R184, U3: a RENDER of a nonempty image without the launch premise has no meaning; that it is refused by this name
is the model's (assumption log 16). -/
def Obligations.RenderWithoutAllocationIsRefused : Prop :=
  ∀ s : State, s.busy = false → s.width ≠ 0 → s.height ≠ 0 →
    s.allocWidth < 4 * s.width.toNat ∨ s.allocHeight < 4 * s.height.toNat →
    exec .render s = .refused .destinationNotAllocated

/-- R150: on an idle block CLEAR_STATUS clears DONE, ERR and ERRCODE and changes nothing else, so STATUS then reads 0,
and a word with its opcode and a reserved bit is rejected; while BUSY every word with its opcode is rejected, which
itself sets ERR. `delivered` is the model's record of what a read brings (assumption log 11). -/
def Obligations.ClearStatusClearsFlags : Prop :=
  ∀ s : State,
    let recorded : ErrCode → State := fun e => { s with err := true, errCode := if s.err then s.errCode else e }
    (s.busy = false →
      let t : State := { s with done := false, err := false, errCode := .noError }
      exec .clearStatus s = .next t ∧ cmdWrite 0xF0000000#32 s = .next t ∧
      busRead (.window 0x04) 4 t = .next { t with delivered := .word 0 :: t.delivered } ∧
      ∀ w : Word, w >>> 24 = 0xF0#32 → w ≠ 0xF0000000#32 → cmdWrite w s = .next (recorded .reservedBits)) ∧
    (s.busy = true →
      exec .clearStatus s = .next (recorded .busyReject) ∧
      ∀ w : Word, w >>> 24 = 0xF0#32 → cmdWrite w s = .next (recorded .busyReject))

/-- R180, R181, R151, by SOFT_RESET or by the reset input, from any state: every register at its reset value, TILE at
the tile of (180, 50), and outside the block nothing but the region of an aborted render, each pixel of which holds
its prior or its rendered value. A word 0xFF with a reserved bit resets nothing. The model's choices: `dstBefore` is
its own copy of the prior values, and a reset leaves `agenda` and `delivered` (assumption log 11); the reset input is
an event of the agenda (log 3); the form of the draw that says which value a pixel takes (log 7). -/
def Obligations.ResetRestoresBlockAndAborts : Prop :=
  ∀ s : State,
    (∀ w : Word, w >>> 24 = 0xFF#32 → w ≠ 0xFF000000#32 →
      cmdWrite w s = .next { s with err := true, errCode := if s.err then s.errCode else .reservedBits }) ∧
    ∃ t : State,
      exec .softReset s = .next t ∧ cmdWrite 0xFF000000#32 s = .next t ∧
      (∀ rest : List Event, s.agenda = .resetInput :: rest → step s = .next { t with agenda := rest }) ∧
      (t.maskStrength = 180 ∧ t.gapStrength = 50 ∧ t.width = 0 ∧ t.height = 0 ∧ t.tile = genTile params 180 50) ∧
      (t.curRow = 0 ∧ t.curCol = 0 ∧ t.prev = ⟨0, 0, 0⟩ ∧ t.curPix = ⟨0, 0, 0⟩) ∧
      (t.sx = 0 ∧ t.sy = 0 ∧ t.sj = 0 ∧ t.si = 0) ∧
      (t.busy = false ∧ t.done = false ∧ t.err = false ∧ t.errCode = .noError ∧ t.result = 0) ∧
      (t.src = s.src ∧ t.allocWidth = s.allocWidth ∧ t.allocHeight = s.allocHeight ∧ t.agenda = s.agenda ∧
        t.delivered = s.delivered) ∧
      (s.busy = false → t.dst = s.dst) ∧
      (s.busy = true → ∀ a : Coord,
        (a.x < 4 * s.width.toNat ∧ a.y < 4 * s.height.toNat →
          t.dst.lookup a = some (s.rendered params a) ∨ t.dst.lookup a = s.dstBefore.lookup a) ∧
        (¬(a.x < 4 * s.width.toNat ∧ a.y < 4 * s.height.toNat) → t.dst.lookup a = s.dst.lookup a))

/-- R163: while BUSY every CMD write whose opcode is not 0xFF is rejected with BUSY_REJECT, and so is every command
but SOFT_RESET; opcode 0xFF with a reserved bit is rejected with RESERVED_BITS. -/
def Obligations.BusyRejectsAllButSoftReset : Prop :=
  ∀ s : State, s.busy = true →
    (∀ w : Word, w >>> 24 ≠ 0xFF#32 →
      cmdWrite w s = .next { s with err := true, errCode := if s.err then s.errCode else .busyReject }) ∧
    (∀ i : Instr, i ≠ .softReset →
      exec i s = .next { s with err := true, errCode := if s.err then s.errCode else .busyReject }) ∧
    (∀ w : Word, w >>> 24 = 0xFF#32 → w ≠ 0xFF000000#32 →
      cmdWrite w s = .next { s with err := true, errCode := if s.err then s.errCode else .reservedBits })

/-- R188, R64: after a SET command READ_LUT still shows the old tile's cell; after a GEN_LUT it shows the new
configuration's. -/
def Obligations.ReadLutSeesTileUntilReloaded : Prop :=
  ∀ (s : State) (mask gap : BitVec 8) (row col : BitVec 3) (h : col.toNat < 6), s.busy = false →
    ∃ s1 s2 s3 s4 s5 : State,
      exec (.setMaskStrength mask) s = .next s1 ∧ exec (.setGapStrength gap) s1 = .next s2 ∧
      exec (.readLut row col) s2 = .next s3 ∧
      s3.result = (s.tile.cell ⟨row.toNat, row.isLt⟩ ⟨col.toNat, h⟩).pack ∧
      exec .genLut s3 = .next s4 ∧ exec (.readLut row col) s4 = .next s5 ∧
      s5.result = ((genTile params mask gap).cell ⟨row.toNat, row.isLt⟩ ⟨col.toNat, h⟩).pack

/-! ### Mask table -/

/-- R100 to R106: every channel of every generated cell, as a number. -/
def Obligations.GeneratedTileCells : Prop :=
  ∀ (mask gap : Byte) (r : TileRow) (c : TileCol) (k : Channel),
    let accent :=
      r.val = 0 ∨ r.val = 2 ∨ r.val = 4 ∨ r.val = 6 ∨
      ((r.val = 1 ∨ r.val = 5) ∧ c.val ≤ 2) ∨ ((r.val = 3 ∨ r.val = 7) ∧ 3 ≤ c.val)
    let active := k.val = c.val % 3
    (((genTile params mask gap).cell r c).ch k).toNat =
      if accent then (if active then 255 else mask.toNat)
      else if active then 255 - gap.toNat
      else if gap.toNat ≤ mask.toNat then mask.toNat - gap.toNat else 0

/-- R111: the five properties of the generated tile. -/
def Obligations.GeneratedTileProperties : Prop :=
  (∀ (r : TileRow) (c : TileCol), (genTile params 255 0).cell r c = ⟨255, 255, 255⟩) ∧
  (∀ (mask : Byte) (r : TileRow) (c : TileCol), cellKind r c = .gapBlend →
    (genTile params mask 255).cell r c = ⟨0, 0, 0⟩) ∧
  (∀ (mask gap : Byte) (r : TileRow) (c : TileCol) (k : Channel), mask.toNat ≤ gap.toNat →
    cellKind r c = .gapBlend → k.val ≠ c.val % 3 → ((genTile params mask gap).cell r c).ch k = 0) ∧
  ((genTile params 0 255).cell 3 0 = ⟨0, 0, 0⟩ ∧ (genTile params 0 255).cell 3 1 = ⟨0, 0, 0⟩ ∧
    (genTile params 0 255).cell 3 2 = ⟨0, 0, 0⟩ ∧ (genTile params 0 255).cell 3 3 = ⟨255, 0, 0⟩ ∧
    (genTile params 0 255).cell 3 4 = ⟨0, 255, 0⟩ ∧ (genTile params 0 255).cell 3 5 = ⟨0, 0, 255⟩) ∧
  (∀ (mask gap : Byte) (r r' : TileRow) (c : TileCol), r'.val = r.val + 4 →
    (genTile params mask gap).cell r c = (genTile params mask gap).cell r' c)

/-! ### Datapath and engine -/

/-- R120, R121, R123, R125, composed as in R124: a channel of a sub-pixel, computed on exact naturals from that
channel alone, with the bounds the spec gives each intermediate; narrowing the result to a byte loses nothing. -/
def Obligations.SubPixelIsExactArithmetic : Prop :=
  ∀ (i j : Sub) (cur prv cell : Pixel) (k : Channel),
    let x := (cur.ch k).toNat
    let y := (prv.ch k).toNat
    let m := (cell.ch k).toNat
    let blurred := if i.val = 0 then (x + y) / 2 else if i.val = 1 then (3 * x + y) / 4 else x
    let gapped := if j.val = 0 then blurred - 60 else if j.val = 3 then blurred - 120 else blurred
    let b := gapped + gapped / 8
    x + y ≤ 510 ∧ 3 * x + y ≤ 1020 ∧ blurred ≤ 255 ∧ gapped ≤ 255 ∧ b ≤ 286 ∧ b * m ≤ 72930 ∧ b * m / 200 ≤ 364 ∧
    ((subPixel params i j cur prv cell).ch k).toNat = min (b * m / 200) 255

/-- R137: the special values. -/
def Obligations.SpecialPixelValues : Prop :=
  (∀ (i j : Sub) (cur prv cell : Pixel) (k : Channel), cur.ch k = 0 → prv.ch k = 0 →
    (subPixel params i j cur prv cell).ch k = 0) ∧
  (∀ (i j : Sub) (cell : Pixel), subPixel params i j black black cell = black) ∧
  (∀ cur : Nat, blur 0 cur 0 = cur / 2) ∧
  (∀ (i : Sub) (cur prv cell : Pixel) (k : Channel), blur i (cur.ch k).toNat (prv.ch k).toNat ≤ 120 →
    (subPixel params i 3 cur prv cell).ch k = 0) ∧
  (∀ (i : Sub) (cur prv cell : Pixel) (k : Channel), blur i (cur.ch k).toNat (prv.ch k).toNat ≤ 60 →
    (subPixel params i 0 cur prv cell).ch k = 0) ∧
  (∀ v m : Nat, 51000 ≤ (v + v / 8) * m → boost params v m = 255)

/-- R131, R126 and R20: a step whose next event is the engine's, or that has no event left, does exactly what the
spec's pseudocode does to a busy block, one clause for each way the sequencer moves on, and nothing to an idle one but take
the event away. What a clause does not name is unchanged; the one pixel written is said through what every coordinate
reads. The agenda, and that an engine event while idle does nothing, are the model's (assumption logs 3 and 21), and
`dstBefore` is the model's own copy of the destination (log 11). -/
def Obligations.EngineStepFollowsPseudocode : Prop :=
  ∀ (s : State) (rest : List Event), s.agenda = .engineStep :: rest ∨ (s.agenda = [] ∧ rest = []) →
    (s.busy = false → step s = .next { s with agenda := rest }) ∧
    (s.busy = true →
      let first := s.si.val = 0 ∧ s.sj.val = 0
      let prev := if first ∧ s.sx.toNat = 0 then black else s.prev
      let cur := if first then s.srcRead s.sx.toNat s.sy.toNat else s.curPix
      let out := subPixel params s.si s.sj cur prev (s.tile.cell s.curRow s.curCol)
      let target : Coord := ⟨4 * s.sx.toNat + s.si.val, 4 * s.sy.toNat + s.sj.val⟩
      let col : TileCol := ⟨(s.curCol.val + 1) % 6, Nat.mod_lt _ (by decide)⟩
      let row : TileRow := ⟨(s.curRow.val + 1) % 8, Nat.mod_lt _ (by decide)⟩
      ∃ t : State, step s = .next t ∧
        (∀ a : Coord, t.dst.lookup a = if a = target then some out else s.dst.lookup a) ∧
        (s.si.val < 3 →
          t = { s with agenda := rest, dst := t.dst, prev := prev, curPix := cur, curCol := col, si := t.si } ∧
          t.si.val = s.si.val + 1) ∧
        (s.si.val = 3 → s.sj.val < 3 →
          t = { s with
                agenda := rest, dst := t.dst, prev := prev, curPix := cur, curCol := col, si := 0, curRow := row
                sj := t.sj } ∧
          t.sj.val = s.sj.val + 1) ∧
        (s.si.val = 3 → s.sj.val = 3 → s.sx.toNat + 1 < s.width.toNat →
          t = { s with
                agenda := rest, dst := t.dst, prev := cur, curPix := cur, curCol := col, si := 0, curRow := row
                sj := 0, sx := t.sx } ∧
          t.sx.toNat = s.sx.toNat + 1) ∧
        (s.si.val = 3 → s.sj.val = 3 → s.width.toNat ≤ s.sx.toNat + 1 → s.sy.toNat + 1 ≠ s.height.toNat →
          t = { s with
                agenda := rest, dst := t.dst, prev := cur, curPix := cur, curCol := col, si := 0, curRow := row
                sj := 0, sx := 0, sy := s.sy + 1 }) ∧
        (s.si.val = 3 → s.sj.val = 3 → s.width.toNat ≤ s.sx.toNat + 1 → s.sy.toNat + 1 = s.height.toNat →
          t = { s with
                agenda := rest, dst := t.dst, prev := cur, curPix := cur, curCol := col, si := 0, curRow := row
                sj := 0, sx := 0, sy := s.height, busy := false, done := true, dstBefore := [] }))

/-! ### A whole render -/

/-- R132, with R130 and R190: an accepted RENDER of a nonempty image, left to run, is busy for exactly `16 * WIDTH *
HEIGHT` engine steps, ends with the state R132 names, and nothing changes after that. It covers the render with no
host event interleaved: the agenda holds the RENDER write alone, the engine then steps by itself, and the idle block
repeats its state, all of which are the model's (assumption logs 3 and 21). -/
def Obligations.RenderCompletes : Prop :=
  ∀ s : State, s.busy = false → s.width ≠ 0 → s.height ≠ 0 →
    4 * s.width.toNat ≤ s.allocWidth → 4 * s.height.toNat ≤ s.allocHeight →
    s.agenda = [.busWrite (.window 0x00) (wordBytes 0x20000000#32)] →
    let steps := 16 * s.width.toNat * s.height.toNat
    (∀ n : Nat, n < steps → ∃ u : State, Host.Core.run Sys2Proof.core (1 + n) s = .next u ∧ u.busy = true) ∧
    ∃ t : State,
      (∀ n : Nat, Host.Core.run Sys2Proof.core (1 + steps + n) s = .next t) ∧
      t.busy = false ∧ t.done = true ∧
      t.sx = 0 ∧ t.sy = s.height ∧ t.sj = 0 ∧ t.si = 0 ∧
      t.prev = s.srcRead (s.width.toNat - 1) (s.height.toNat - 1) ∧
      t.curRow.val = (4 * s.width.toNat * s.height.toNat) % 8 ∧
      t.curCol.val = (4 * s.width.toNat * s.height.toNat) % 6

/-- R133: after a completed render each pixel of the destination is the closed form, computed from the source and the
two strengths as they stood at RENDER; every other pixel is as before (R59). It covers the render with no host event
interleaved (the agenda is the model's, assumption logs 3 and 21). -/
def Obligations.RenderedImageIsClosedForm : Prop :=
  ∀ s : State, s.busy = false → s.width ≠ 0 → s.height ≠ 0 →
    4 * s.width.toNat ≤ s.allocWidth → 4 * s.height.toNat ≤ s.allocHeight →
    s.agenda = [.busWrite (.window 0x00) (wordBytes 0x20000000#32)] →
    ∃ t : State,
      Host.Core.run Sys2Proof.core (1 + 16 * s.width.toNat * s.height.toNat) s = .next t ∧
      (∀ X Y : Nat, X < 4 * s.width.toNat → Y < 4 * s.height.toNat →
        let x := X / 4
        let i : Sub := ⟨X % 4, Nat.mod_lt _ (by decide)⟩
        let y := Y / 4
        let j : Sub := ⟨Y % 4, Nat.mod_lt _ (by decide)⟩
        let n := y * s.width.toNat + x
        let row : TileRow := ⟨(4 * n + j.val) % 8, Nat.mod_lt _ (by decide)⟩
        let col : TileCol := ⟨(16 * n + 4 * j.val + i.val) % 6, Nat.mod_lt _ (by decide)⟩
        let left := if x = 0 then black else s.srcRead (x - 1) y
        let tile := genTile params s.maskStrength s.gapStrength
        t.dst.lookup ⟨X, Y⟩ = some (subPixel params i j (s.srcRead x y) left (tile.cell row col))) ∧
      (∀ a : Coord, ¬(a.x < 4 * s.width.toNat ∧ a.y < 4 * s.height.toNat) → t.dst.lookup a = s.dst.lookup a)

/-- R134: at the first sub-pixel of the `n`-th source pixel in raster order the cursor is `(4n mod 8, 16n mod 6 = 4n
mod 6)`, and at the next one's it is 4 rows and 16 columns further, wrapping at 8 and 6: it is not realigned at block
boundaries or row starts. It covers the render with no host event interleaved (the agenda is the model's,
assumption logs 3 and 21). -/
def Obligations.CursorRunsWithoutReset : Prop :=
  ∀ s : State, s.busy = false → s.width ≠ 0 → s.height ≠ 0 →
    4 * s.width.toNat ≤ s.allocWidth → 4 * s.height.toNat ≤ s.allocHeight →
    s.agenda = [.busWrite (.window 0x00) (wordBytes 0x20000000#32)] →
    ∀ n : Nat, n < s.width.toNat * s.height.toNat →
      ∃ u : State, Host.Core.run Sys2Proof.core (1 + 16 * n) s = .next u ∧ u.busy = true ∧
        u.si = 0 ∧ u.sj = 0 ∧ u.sx.toNat = n % s.width.toNat ∧ u.sy.toNat = n / s.width.toNat ∧
        u.curRow.val = 4 * n % 8 ∧ u.curCol.val = 16 * n % 6 ∧ u.curCol.val = 4 * n % 6 ∧
        (n + 1 < s.width.toNat * s.height.toNat →
          ∃ v : State, Host.Core.run Sys2Proof.core (1 + 16 * (n + 1)) s = .next v ∧
            v.curRow.val = (u.curRow.val + 4) % 8 ∧ v.curCol.val = (u.curCol.val + 16) % 6)

/-- R59, R60: the engine's `n`-th step (counted from 0) writes the coordinate whose place in the order source pixel,
sub-row, sub-column is `n`; so each coordinate of the region is written at exactly one step, no step writes outside
it, and each source pixel is read (at its first sub-pixel, R129) at exactly one step. It covers the render with no
host event interleaved (the agenda is the model's, assumption logs 3 and 21). -/
def Obligations.EachPixelIsWrittenOnceInOrder : Prop :=
  ∀ s : State, s.busy = false → s.width ≠ 0 → s.height ≠ 0 →
    4 * s.width.toNat ≤ s.allocWidth → 4 * s.height.toNat ≤ s.allocHeight →
    s.agenda = [.busWrite (.window 0x00) (wordBytes 0x20000000#32)] →
    let steps := 16 * s.width.toNat * s.height.toNat
    (∀ n : Nat, n < steps →
      ∃ u v : State, Host.Core.run Sys2Proof.core (1 + n) s = .next u ∧
        Host.Core.run Sys2Proof.core (1 + n + 1) s = .next v ∧
        writeIndex s.width.toNat u.dstCoord = n ∧
        u.dstCoord.x < 4 * s.width.toNat ∧ u.dstCoord.y < 4 * s.height.toNat ∧
        (∃ p : Pixel, v.dst.lookup u.dstCoord = some p) ∧
        ∀ a : Coord, a ≠ u.dstCoord → v.dst.lookup a = u.dst.lookup a) ∧
    (∀ a : Coord, a.x < 4 * s.width.toNat → a.y < 4 * s.height.toNat →
      ∃! n : Nat, n < steps ∧ ∃ u : State, Host.Core.run Sys2Proof.core (1 + n) s = .next u ∧ u.dstCoord = a) ∧
    (∀ x y : Nat, x < s.width.toNat → y < s.height.toNat →
      ∃! n : Nat, n < steps ∧ ∃ u : State, Host.Core.run Sys2Proof.core (1 + n) s = .next u ∧
        u.si = 0 ∧ u.sj = 0 ∧ u.sx.toNat = x ∧ u.sy.toNat = y)

/-- R136 for a nonempty image (R130's empty render is RenderOfEmptyImageCompletesAtOnce): what a render writes and
leaves depends on the dimensions, the strengths and the source image alone: two launches that agree on these give
equal pixels in the region and equal render state, whatever else differs (the cursor, PREV, the old tile, the old
destination). It covers renders with no host event interleaved (the agenda is the model's, assumption logs 3
and 21). -/
def Obligations.RenderDependsOnItsInputsAlone : Prop :=
  ∀ s s' : State,
    s.busy = false → s.width ≠ 0 → s.height ≠ 0 →
    4 * s.width.toNat ≤ s.allocWidth → 4 * s.height.toNat ≤ s.allocHeight →
    s.agenda = [.busWrite (.window 0x00) (wordBytes 0x20000000#32)] →
    s'.busy = false → 4 * s'.width.toNat ≤ s'.allocWidth → 4 * s'.height.toNat ≤ s'.allocHeight →
    s'.agenda = [.busWrite (.window 0x00) (wordBytes 0x20000000#32)] →
    s'.width = s.width → s'.height = s.height →
    s'.maskStrength = s.maskStrength → s'.gapStrength = s.gapStrength →
    (∀ x y : Nat, x < s.width.toNat → y < s.height.toNat → s'.srcRead x y = s.srcRead x y) →
    ∃ t t' : State,
      Host.Core.run Sys2Proof.core (1 + 16 * s.width.toNat * s.height.toNat) s = .next t ∧
      Host.Core.run Sys2Proof.core (1 + 16 * s.width.toNat * s.height.toNat) s' = .next t' ∧
      (∀ a : Coord, a.x < 4 * s.width.toNat → a.y < 4 * s.height.toNat → t'.dst.lookup a = t.dst.lookup a) ∧
      t'.tile = t.tile ∧ t'.curRow = t.curRow ∧ t'.curCol = t.curCol ∧ t'.prev = t.prev ∧ t'.curPix = t.curPix ∧
      t'.sx = t.sx ∧ t'.sy = t.sy ∧ t'.sj = t.sj ∧ t'.si = t.si ∧ t'.busy = t.busy ∧ t'.done = t.done ∧
      t'.width = t.width ∧ t'.height = t.height ∧ t'.maskStrength = t.maskStrength ∧ t'.gapStrength = t.gapStrength

/-- R165, R190: from every good busy state, left to run, the render completes after exactly the engine steps it has
not yet taken. That the engine then runs alone, its fairness built in, is the model's (assumption logs 3 and
21). -/
def Obligations.EveryRunningRenderCompletes : Prop :=
  ∀ s : State, Inv s → s.busy = true → s.agenda = [] →
    s.stepsTaken < 16 * s.width.toNat * s.height.toNat ∧
    ∃ t : State,
      Host.Core.run Sys2Proof.core (16 * s.width.toNat * s.height.toNat - s.stepsTaken) s = .next t ∧
      t.busy = false ∧ t.done = true ∧ t.sx = 0 ∧ t.sy = s.height ∧
      (∀ a : Coord, a.x < 4 * s.width.toNat → a.y < 4 * s.height.toNat →
        t.dst.lookup a = some (s.rendered params a)) ∧
      (∀ a : Coord, ¬(a.x < 4 * s.width.toNat ∧ a.y < 4 * s.height.toNat) → t.dst.lookup a = s.dst.lookup a)

/-! ### Invariants and whole-machine rules -/

/-- Every step keeps the invariant of Safety.lean: canonical images inside the allocation, RESULT a packed Pixel, TILE
a generated tile, ERRCODE 0 exactly while ERR is 0, and a running render where R133 and R134 say it is. The canonical
images, the allocation and `dstBefore` are the model's own (assumption logs 1, 2, 11 and 12). -/
def Obligations.StepKeepsInvariant : Prop :=
  ∀ s t : State, Inv s → step s = .next t → Inv t

/-- The invariant holds after reset, with whatever canonical source image, allocation and agenda the host brings
(R180, R183; the images, the allocation and the agenda are the model's choice, assumption logs 1 to 4, 10 and 11). -/
def Obligations.ResetMeetsInvariant : Prop :=
  ∀ (src : Memory) (w h : Nat) (agenda : List Event), src.srcWf = true →
    Inv { State.reset with src := src, allocWidth := w, allocHeight := h, agenda := agenda }

/-- R57, R58, R7: in a good busy state the engine reads and writes only inside the images, and a destination
coordinate fits 18 bits. -/
def Obligations.EngineStaysInsideImages : Prop :=
  ∀ s : State, Inv s → s.busy = true →
    s.sx.toNat < s.width.toNat ∧ s.sy.toNat < s.height.toNat ∧
    s.dstCoord.x < 4 * s.width.toNat ∧ s.dstCoord.y < 4 * s.height.toNat ∧
    s.dstCoord.x < 2 ^ dstCoordBits ∧ s.dstCoord.y < 2 ^ dstCoordBits ∧
    s.dstCoord.inside s.allocWidth s.allocHeight = true

/-- R163, R24: no step that leaves a render running changes the configuration, the dimensions or TILE; R186, U4: nor
the source image. That it does not change the allocation either is the model's choice (assumption log 13). The last
engine step, which ends BUSY, is in EngineStepFollowsPseudocode. -/
def Obligations.ConfigurationIsFixedWhileRendering : Prop :=
  ∀ s t : State, step s = .next t → s.busy = true → t.busy = true →
    t.maskStrength = s.maskStrength ∧ t.gapStrength = s.gapStrength ∧ t.width = s.width ∧ t.height = s.height ∧
    t.tile = s.tile ∧ t.src = s.src ∧ t.allocWidth = s.allocWidth ∧ t.allocHeight = s.allocHeight

/-- R27, R130, R174: BUSY becomes 1 only by an accepted RENDER of a nonempty image. -/
def Obligations.OnlyRenderMakesBusy : Prop :=
  ∀ s t : State, step s = .next t → s.busy = false → t.busy = true →
    s.writesCommand 0x20000000#32 ∧ s.width ≠ 0 ∧ s.height ≠ 0

/-- R162, R27: once ERR is 1, it and ERRCODE stay until CLEAR_STATUS on an idle block or a reset clears both; and when ERR
becomes 1, ERRCODE is one of the four errors. -/
def Obligations.FirstErrorIsKept : Prop :=
  ∀ s t : State, step s = .next t →
    (s.err = true →
      (t.err = true ∧ t.errCode = s.errCode) ∨
      (((s.writesCommand 0xF0000000#32 ∧ s.busy = false) ∨ s.writesCommand 0xFF000000#32 ∨ s.resetsNext) ∧
        t.err = false ∧ t.errCode = .noError)) ∧
    (s.err = false → t.err = true → t.errCode ≠ .noError)

/-- R108: TILE changes only where `LoadTile` runs (GEN_LUT, RENDER, reset), and then it is the generated tile of the
configuration. -/
def Obligations.TileChangesOnlyByLoadTile : Prop :=
  ∀ s t : State, step s = .next t →
    t.tile = s.tile ∨
    (t.tile = genTile params t.maskStrength t.gapStrength ∧
      (s.writesCommand 0x10000000#32 ∨ s.writesCommand 0x20000000#32 ∨ s.writesCommand 0xFF000000#32 ∨
        s.resetsNext))

/-- R30: only READ_LUT and reset write RESULT. -/
def Obligations.ResultChangesOnlyByReadLut : Prop :=
  ∀ s t : State, step s = .next t →
    t.result = s.result ∨
    (t.result = 0 ∧ (s.writesCommand 0xFF000000#32 ∨ s.resetsNext)) ∨
    (∃ (r : TileRow) (c : TileCol), t.result = (s.tile.cell r c).pack ∧
      s.writesCommand (0x11000000#32 + BitVec.ofNat 32 (256 * r.val + c.val)))

/-! ### The host's images -/

/-- R183, R186, R187, U4: while idle the host stores a source pixel, allocates, and stores and reads destination pixels,
each changing nothing else. While BUSY it has no move that writes an image; it may read the destination, where a pixel
outside the running render's region reads exactly and a pixel of the region reads its rendered or its prior value, as a
free draw says. An access outside the allocation, and a read of a pixel that has no value, stop by name. The model's
choices: the four moves, an allocation being empty, and the stops while BUSY (more than R186 forbids) and outside the
allocation (assumption log 13); a pixel without a value (log 2); the form of the draw (log 8); `dstBefore` as the prior
value, and `delivered` and `draws` (log 11); the agenda (log 3). -/
def Obligations.HostImageMoves : Prop :=
  ∀ (s : State) (a : Coord) (p : Pixel) (rest : List Event),
    (s.agenda = .storeSrc a p :: rest → s.busy = false →
      ∃ t : State, step s = .next t ∧ t = { s with agenda := rest, src := t.src } ∧
        ∀ x y : Nat, t.srcRead x y = if (⟨x, y⟩ : Coord) = a then p else s.srcRead x y) ∧
    (∀ w h : Nat, s.agenda = .allocDst w h :: rest → s.busy = false →
      ∃ t : State, step s = .next t ∧
        t = { s with agenda := rest, dst := t.dst, allocWidth := w, allocHeight := h } ∧
        ∀ b : Coord, t.dst.lookup b = none) ∧
    (s.agenda = .storeDst a p :: rest → s.busy = false → a.x < s.allocWidth → a.y < s.allocHeight →
      ∃ t : State, step s = .next t ∧ t = { s with agenda := rest, dst := t.dst } ∧
        ∀ b : Coord, t.dst.lookup b = if b = a then some p else s.dst.lookup b) ∧
    (s.agenda = .loadDst a :: rest → s.busy = false → a.x < s.allocWidth → a.y < s.allocHeight →
      s.dst.lookup a = some p →
      step s = .next { s with agenda := rest, delivered := .pixel p :: s.delivered }) ∧
    (s.agenda = .loadDst a :: rest → s.busy = false → a.x < s.allocWidth → a.y < s.allocHeight →
      s.dst.lookup a = none → step s = .fault .dstUnwritten) ∧
    (s.agenda = .storeDst a p :: rest → s.busy = false → ¬(a.x < s.allocWidth ∧ a.y < s.allocHeight) →
      step s = .fault .outsideAllocation) ∧
    (s.agenda = .loadDst a :: rest → ¬(a.x < s.allocWidth ∧ a.y < s.allocHeight) →
      step s = .fault .outsideAllocation) ∧
    (s.agenda = .loadDst a :: rest → s.busy = true → a.x < s.allocWidth → a.y < s.allocHeight →
      (¬(a.x < 4 * s.width.toNat ∧ a.y < 4 * s.height.toNat) →
        (s.dst.lookup a = some p → step s = .next { s with agenda := rest, delivered := .pixel p :: s.delivered }) ∧
        (s.dst.lookup a = none → step s = .fault .dstUnwritten)) ∧
      (a.x < 4 * s.width.toNat → a.y < 4 * s.height.toNat →
        step s =
          match (if Config.earlyLoadSeesRendered s.draws a then some (s.rendered params a)
            else s.dstBefore.lookup a) with
          | some q => .next { s with agenda := rest, delivered := .pixel q :: s.delivered, draws := s.draws + 1 }
          | none => .fault .dstUnwritten)) ∧
    (s.busy = true →
      (s.agenda = .storeSrc a p :: rest → step s = .fault .hostMoveWhileBusy) ∧
      (∀ w h : Nat, s.agenda = .allocDst w h :: rest → step s = .fault .hostMoveWhileBusy) ∧
      (s.agenda = .storeDst a p :: rest → step s = .fault .hostMoveWhileBusy))

/-! ### Assembler -/

/-- R79: each command line assembles to the write of its word and LOAD to the read of its register; an operand outside its
field is refused, and a raw word is written as it stands. That the assembler answers events is the model's choice
(assumption logs 3, 4 and 19). -/
def Obligations.AssemblerEncodesOrRefuses : Prop :=
  (AsmLine.nop.assemble = some [cmdEvent 0x00000000#32] ∧
    AsmLine.genLut.assemble = some [cmdEvent 0x10000000#32] ∧
    AsmLine.render.assemble = some [cmdEvent 0x20000000#32] ∧
    AsmLine.clearStatus.assemble = some [cmdEvent 0xF0000000#32] ∧
    AsmLine.softReset.assemble = some [cmdEvent 0xFF000000#32]) ∧
  ((AsmLine.load .cmd).assemble = some [.busRead (.window 0x00) 4] ∧
    (AsmLine.load .status).assemble = some [.busRead (.window 0x04) 4] ∧
    (AsmLine.load .result).assemble = some [.busRead (.window 0x08) 4] ∧
    (AsmLine.load .config).assemble = some [.busRead (.window 0x0C) 4] ∧
    (AsmLine.load .dims).assemble = some [.busRead (.window 0x10) 4] ∧
    (AsmLine.load .cursor).assemble = some [.busRead (.window 0x14) 4] ∧
    (AsmLine.load .prev).assemble = some [.busRead (.window 0x18) 4] ∧
    (AsmLine.load .pos).assemble = some [.busRead (.window 0x1C) 4]) ∧
  ∀ v r c : Nat,
    (AsmLine.setMaskStrength v).assemble =
      (if v ≤ 255 then some [cmdEvent (BitVec.ofNat 32 (0x01000000 + v))] else none) ∧
    (AsmLine.setGapStrength v).assemble =
      (if v ≤ 255 then some [cmdEvent (BitVec.ofNat 32 (0x02000000 + v))] else none) ∧
    (AsmLine.setWidth v).assemble =
      (if v ≤ 65535 then some [cmdEvent (BitVec.ofNat 32 (0x03000000 + v))] else none) ∧
    (AsmLine.setHeight v).assemble =
      (if v ≤ 65535 then some [cmdEvent (BitVec.ofNat 32 (0x04000000 + v))] else none) ∧
    (AsmLine.readLut r c).assemble =
      (if r ≤ 7 ∧ c ≤ 5 then some [cmdEvent (BitVec.ofNat 32 (0x11000000 + 256 * r + c))] else none) ∧
    (AsmLine.word v).assemble = (if v < 2 ^ 32 then some [cmdEvent (BitVec.ofNat 32 v)] else none)

/-- R80: each pseudo-instruction stands for its expansion, and WAIT_IDLE keeps the host waiting (the engine
stepping) while BUSY reads 1 and otherwise reads STATUS once. How a wait is stepped is the model's (assumption log 9). -/
def Obligations.PseudoInstructionsExpand : Prop :=
  (∀ w h : Nat, (AsmLine.setDims w h).assemble =
    ((AsmLine.setWidth w).assemble.bind fun a => (AsmLine.setHeight h).assemble.map fun b => a ++ b)) ∧
  (∀ m g : Nat, (AsmLine.config m g).assemble =
    ((AsmLine.setMaskStrength m).assemble.bind fun a => (AsmLine.setGapStrength g).assemble.bind fun b =>
      AsmLine.genLut.assemble.map fun d => a ++ b ++ d)) ∧
  (AsmLine.run.assemble =
    AsmLine.render.assemble.bind fun a => AsmLine.waitIdle.assemble.map fun b => a ++ b) ∧
  (∀ (s : State) (rest : List Event), s.agenda = .waitIdle :: rest →
    (s.busy = true → step s = .next (engineStep params s)) ∧
    (s.busy = false → step s = busRead (.window 0x04) 4 { s with agenda := rest }))

/-- R79: a number is its digits in base 10, or after `0x` in base 16, most significant first; a text with no digit, or with
a character that is no digit of its base, is no number. Which characters are digits above 9 is the model's choice
(assumption log 19). -/
def Obligations.AssemblerReadsNumbers : Prop :=
  (∀ ds : List Nat, ds ≠ [] → (∀ d ∈ ds, d < 10) →
    number? (ds.map Nat.digitChar) = some (ds.foldl (fun acc d => 10 * acc + d) 0)) ∧
  (∀ ds : List Nat, ds ≠ [] → (∀ d ∈ ds, d < 16) →
    number? ('0' :: 'x' :: ds.map Nat.digitChar) = some (ds.foldl (fun acc d => 16 * acc + d) 0)) ∧
  (number? [] = none ∧ number? ['0', 'x'] = none) ∧
  (∀ (t u : List Char) (ch : Char), ch ∉ "0123456789".toList → (∀ v : List Char, t ++ ch :: u ≠ '0' :: 'x' :: v) →
    number? (t ++ ch :: u) = none) ∧
  (∀ (t u : List Char) (ch : Char), ch ∉ "0123456789abcdefABCDEF".toList →
    number? ('0' :: 'x' :: (t ++ ch :: u)) = none)

/-- R79, R80: a line is its mnemonic and then its operands separated by commas, as many as its format takes, each a number;
any other count is refused. A comment is no part of its line, a line with nothing else stands for no command, and a program
is its lines in order, refused if a line is. The spelling of blanks is the model's choice (assumption log 19). -/
def Obligations.AssemblerReadsLines : Prop :=
  (assembleLine? "NOP".toList = AsmLine.nop.assemble ∧ assembleLine? "GEN_LUT".toList = AsmLine.genLut.assemble ∧
    assembleLine? "RENDER".toList = AsmLine.render.assemble ∧
    assembleLine? "CLEAR_STATUS".toList = AsmLine.clearStatus.assemble ∧
    assembleLine? "SOFT_RESET".toList = AsmLine.softReset.assemble ∧
    assembleLine? "WAIT_IDLE".toList = AsmLine.waitIdle.assemble ∧ assembleLine? "RUN".toList = AsmLine.run.assemble) ∧
  (assembleLine? "LOAD CMD".toList = (AsmLine.load .cmd).assemble ∧
    assembleLine? "LOAD STATUS".toList = (AsmLine.load .status).assemble ∧
    assembleLine? "LOAD RESULT".toList = (AsmLine.load .result).assemble ∧
    assembleLine? "LOAD CONFIG".toList = (AsmLine.load .config).assemble ∧
    assembleLine? "LOAD DIMS".toList = (AsmLine.load .dims).assemble ∧
    assembleLine? "LOAD CURSOR".toList = (AsmLine.load .cursor).assemble ∧
    assembleLine? "LOAD PREV".toList = (AsmLine.load .prev).assemble ∧
    assembleLine? "LOAD POS".toList = (AsmLine.load .pos).assemble) ∧
  (∀ (t u : List Char) (v w : Nat), number? t = some v → number? u = some w →
    let one : String → Option (List Event) := fun m => assembleLine? (m.toList ++ ' ' :: t)
    let two : String → Option (List Event) := fun m => assembleLine? (m.toList ++ ' ' :: (t ++ ',' :: ' ' :: u))
    (one "SET_MASK_STRENGTH" = (AsmLine.setMaskStrength v).assemble ∧
      one "SET_GAP_STRENGTH" = (AsmLine.setGapStrength v).assemble ∧
      one "SET_WIDTH" = (AsmLine.setWidth v).assemble ∧ one "SET_HEIGHT" = (AsmLine.setHeight v).assemble ∧
      one ".word" = (AsmLine.word v).assemble) ∧
    (two "READ_LUT" = (AsmLine.readLut v w).assemble ∧ two "SET_DIMS" = (AsmLine.setDims v w).assemble ∧
      two "CONFIG" = (AsmLine.config v w).assemble) ∧
    (∀ m ∈ ["NOP", "GEN_LUT", "RENDER", "CLEAR_STATUS", "SOFT_RESET", "WAIT_IDLE", "RUN"],
      one m = none ∧ two m = none) ∧
    (∀ m ∈ ["SET_MASK_STRENGTH", "SET_GAP_STRENGTH", "SET_WIDTH", "SET_HEIGHT", ".word"],
      assembleLine? m.toList = none ∧ two m = none) ∧
    (∀ m ∈ ["READ_LUT", "SET_DIMS", "CONFIG"], assembleLine? m.toList = none ∧ one m = none) ∧
    (∀ m ∈ ["LOAD"], assembleLine? m.toList = none ∧ one m = none ∧ two m = none)) ∧
  (∀ t : List Char, number? t = none → t ≠ [] → (∀ ch ∈ t, isBlank ch = false ∧ ch ≠ ',' ∧ ch ≠ ';') →
    ∀ m ∈ ["SET_MASK_STRENGTH", "SET_GAP_STRENGTH", "SET_WIDTH", "SET_HEIGHT", ".word"],
      assembleLine? (m.toList ++ ' ' :: t) = none) ∧
  (∀ line comment : List Char, ';' ∉ line → assembleLine? (line ++ ';' :: comment) = assembleLine? line) ∧
  (∀ line : List Char, (∀ ch ∈ line, ch = ' ') → assembleLine? line = some []) ∧
  (∀ line rest : List Char, '\n' ∉ line →
    assemble? (String.ofList line) = assembleLine? line ∧
    assemble? (String.ofList (line ++ '\n' :: rest)) =
      (assembleLine? line).bind fun es => (assemble? (String.ofList rest)).map fun es' => es ++ es')
end

