-- ==== Sys2Proof/Laws/Assembler.lean ====
section
/-! SUPPORT. Reading assembler text: what a number is made of, and how a line falls into its mnemonic and operands. -/

namespace Sys2Proof.Machine

/-! ### Numbers -/

/-- A character that stands in a mnemonic or a number: no blank, no comma, no start of a comment. -/
def Plain (t : List Char) : Prop := ∀ ch ∈ t, isBlank ch = false ∧ ch ≠ ',' ∧ ch ≠ ';'

/-- `Plain`, as a check that evaluates. -/
theorem plain_of_all {t : List Char} (h : (t.all fun ch => !isBlank ch && ch != ',' && ch != ';') = true) : Plain t := by
  intro ch hc
  have := List.all_eq_true.1 h ch hc
  simpa [and_assoc] using this

/-- The mnemonics of R74 and R80, the directive `.word`, and LOAD. -/
def mnemonics : List String :=
  ["NOP", "GEN_LUT", "RENDER", "CLEAR_STATUS", "SOFT_RESET", "WAIT_IDLE", "RUN", "SET_MASK_STRENGTH",
    "SET_GAP_STRENGTH", "SET_WIDTH", "SET_HEIGHT", ".word", "READ_LUT", "SET_DIMS", "CONFIG", "LOAD"]

theorem plain_mnemonic {m : String} (h : m ∈ mnemonics) : Plain m.toList ∧ m.toList ≠ [] := by
  simp only [mnemonics, List.mem_cons, List.not_mem_nil, or_false] at h
  rcases h with rfl | rfl | rfl | rfl | rfl | rfl | rfl | rfl | rfl | rfl | rfl | rfl | rfl | rfl | rfl | rfl <;>
    exact ⟨plain_of_all rfl, by simp⟩

theorem digitsFrom?_nil (base acc : Nat) : digitsFrom? base acc [] = some acc := rfl

theorem digitsFrom?_cons {base acc d : Nat} {ch : Char} (t : List Char) (h : digitValue? ch = some d) (hd : d < base) :
    digitsFrom? base acc (ch :: t) = digitsFrom? base (acc * base + d) t := by
  simp only [digitsFrom?, h, if_pos hd]

/-- A text with a character that is no digit of the base is no number. -/
theorem digitsFrom?_none {base : Nat} {ch : Char} (h : ∀ d : Nat, digitValue? ch = some d → ¬d < base)
    (t u : List Char) (acc : Nat) : digitsFrom? base acc (t ++ ch :: u) = none := by
  induction t generalizing acc with
  | nil =>
    simp only [List.nil_append, digitsFrom?]
    cases hd : digitValue? ch with
    | none => rfl
    | some d => simp only [if_neg (h d hd)]
  | cons c t ih =>
    simp only [List.cons_append, digitsFrom?]
    cases digitValue? c with
    | none => rfl
    | some d =>
      simp only
      split_ifs
      · exact ih _
      · rfl

/-- Every character of a number is a digit. -/
theorem digitsFrom?_digits {base acc v : Nat} {t : List Char} (h : digitsFrom? base acc t = some v) {ch : Char}
    (hc : ch ∈ t) : ∃ d : Nat, digitValue? ch = some d ∧ d < base := by
  obtain ⟨t1, t2, rfl⟩ := List.append_of_mem hc
  by_contra hn
  rw [digitsFrom?_none (fun d hd hlt => hn ⟨d, hd, hlt⟩)] at h
  cases h

theorem digitValue?_digitChar {d : Nat} (h : d < 16) : digitValue? (Nat.digitChar d) = some d := by
  revert d
  decide

theorem plain_of_digit {ch : Char} {d : Nat} (h : digitValue? ch = some d) :
    isBlank ch = false ∧ ch ≠ ',' ∧ ch ≠ ';' := by
  have ne : ∀ c : Char, digitValue? c = none → ch ≠ c := by
    rintro c hc rfl
    rw [hc] at h
    cases h
  refine ⟨?_, ne ',' (by decide), ne ';' (by decide)⟩
  simp [isBlank, ne ' ' (by decide), ne '\t' (by decide), ne '\r' (by decide)]

/-- The three ways `number?` reads a text. -/
theorem number?_cases (t : List Char) :
    (t = [] ∧ number? t = none) ∨ (t = ['0', 'x'] ∧ number? t = none) ∨
    (∃ ds : List Char, ds ≠ [] ∧ t = '0' :: 'x' :: ds ∧ number? t = digitsFrom? 16 0 ds) ∨
    (t ≠ [] ∧ (∀ v : List Char, t ≠ '0' :: 'x' :: v) ∧ number? t = digitsFrom? 10 0 t) := by
  unfold number?
  split
  · exact .inl ⟨rfl, rfl⟩
  · exact .inr (.inl ⟨rfl, rfl⟩)
  · rename_i ds hds
    refine .inr (.inr (.inl ⟨ds, ?_, rfl, rfl⟩))
    rintro rfl
    exact hds rfl
  · rename_i h0 _ h2
    exact .inr (.inr (.inr ⟨h0, h2, rfl⟩))

/-- A number is not empty, and is made of plain characters. -/
theorem number?_plain {t : List Char} {v : Nat} (h : number? t = some v) : t ≠ [] ∧ Plain t := by
  rcases number?_cases t with ⟨_, h'⟩ | ⟨_, h'⟩ | ⟨ds, _, rfl, h'⟩ | ⟨hne, _, h'⟩
  · rw [h] at h'; cases h'
  · rw [h] at h'; cases h'
  · refine ⟨by simp, fun ch hc => ?_⟩
    rw [h] at h'
    rcases List.mem_cons.1 hc with rfl | hc
    · decide
    rcases List.mem_cons.1 hc with rfl | hc
    · decide
    obtain ⟨d, hd, _⟩ := digitsFrom?_digits h'.symm hc
    exact plain_of_digit hd
  · refine ⟨hne, fun ch hc => ?_⟩
    rw [h] at h'
    obtain ⟨d, hd, _⟩ := digitsFrom?_digits h'.symm hc
    exact plain_of_digit hd

/-! ### Blanks and lines -/

theorem dropWhile_blank_of_plain {t : List Char} (h : Plain t) : t.dropWhile isBlank = t := by
  cases t with
  | nil => rfl
  | cons c t => simp [(h c (by simp)).1]

/-- A text that starts and ends plain is its own trimming. -/
theorem trimBlanks_of_ends {t u mid : List Char} (ht : Plain t) (htne : t ≠ []) (hu : Plain u) (hune : u ≠ []) :
    trimBlanks (t ++ mid ++ u) = t ++ mid ++ u := by
  obtain ⟨c, t, rfl⟩ := List.exists_cons_of_ne_nil htne
  obtain ⟨u', c', rfl⟩ : ∃ u' c', u = u' ++ [c'] := ⟨_, _, (List.dropLast_append_getLast hune).symm⟩
  have h1 := (ht c (by simp)).1
  have h2 := (hu c' (by simp)).1
  simp [trimBlanks, h1, h2]

theorem trimBlanks_plain {t : List Char} (h : Plain t) : trimBlanks t = t := by
  have hr : Plain t.reverse := fun ch hc => h ch (List.mem_reverse.1 hc)
  rw [trimBlanks, dropWhile_blank_of_plain h, dropWhile_blank_of_plain hr, List.reverse_reverse]

theorem trimBlanks_space (t : List Char) : trimBlanks (' ' :: t) = trimBlanks t := by
  simp [trimBlanks, isBlank]

/-- A line of only blanks. -/
theorem trimBlanks_blank {t : List Char} (h : ∀ ch ∈ t, isBlank ch = true) : trimBlanks t = [] := by
  have : t.dropWhile isBlank = [] := List.dropWhile_eq_nil_iff.2 h
  rw [trimBlanks, this]
  rfl

theorem takeWhile_comment {line : List Char} (h : ';' ∉ line) : line.takeWhile (· ≠ ';') = line := by
  rw [List.takeWhile_eq_self_iff]
  intro ch hc
  simp only [ne_eq, decide_eq_true_eq]
  rintro rfl
  exact h hc

/-- A comment is no part of its line (R79). -/
theorem assembleLine?_comment {line comment : List Char} (h : ';' ∉ line) :
    assembleLine? (line ++ ';' :: comment) = assembleLine? line := by
  have e : (line ++ ';' :: comment).takeWhile (· ≠ ';') = line := by
    rw [List.takeWhile_append_of_pos]
    · simp
    · intro ch hc
      simp only [ne_eq, decide_eq_true_eq]
      rintro rfl
      exact h hc
  unfold assembleLine?
  rw [e, takeWhile_comment h]

/-- A line without a comment, its blanks trimmed, is its mnemonic, a blank, and its operand text. -/
theorem assembleLine?_words {m o : List Char} (hm : Plain m) (ho : ';' ∉ o)
    (ht : trimBlanks (m ++ ' ' :: o) = m ++ ' ' :: o) :
    assembleLine? (m ++ ' ' :: o) = (statement? m (trimBlanks o)).bind AsmLine.assemble := by
  have hc : ';' ∉ m ++ ' ' :: o := by
    simp only [List.mem_append, List.mem_cons, not_or]
    exact ⟨fun h => (hm _ h).2.2 rfl, by decide, ho⟩
  have hmb : ∀ ch ∈ m, (!isBlank ch) = true := fun ch h => by simp [(hm ch h).1]
  have hb : isBlank ' ' = true := rfl
  have take : (m ++ ' ' :: o).takeWhile (fun ch => !isBlank ch) = m := by
    rw [List.takeWhile_append_of_pos hmb]
    simp [hb]
  have drop : (m ++ ' ' :: o).dropWhile (fun ch => !isBlank ch) = ' ' :: o := by
    rw [List.dropWhile_append_of_pos hmb]
    simp [hb]
  unfold assembleLine?
  simp only [takeWhile_comment hc, ht, take, drop, trimBlanks_space]
  rw [if_neg (by simp)]
  cases statement? m (trimBlanks o) <;> rfl

/-- A line that is its mnemonic alone. -/
theorem assembleLine?_bare {m : List Char} (hm : Plain m) (hmne : m ≠ []) :
    assembleLine? m = (statement? m []).bind AsmLine.assemble := by
  have hc : ';' ∉ m := fun h => (hm _ h).2.2 rfl
  have hmb : ∀ ch ∈ m, (!isBlank ch) = true := fun ch h => by simp [(hm ch h).1]
  have take : m.takeWhile (fun ch => !isBlank ch) = m := List.takeWhile_eq_self_iff.2 hmb
  have drop : m.dropWhile (fun ch => !isBlank ch) = [] := List.dropWhile_eq_nil_iff.2 hmb
  unfold assembleLine?
  simp only [takeWhile_comment hc, trimBlanks_plain hm, take, drop, trimBlanks_plain (t := []) (by simp [Plain])]
  rw [if_neg hmne]
  cases statement? m [] <;> rfl

/-- A line with one operand text. -/
theorem assembleLine?_one {m t : List Char} (hm : Plain m) (hmne : m ≠ []) (ht : Plain t) (htne : t ≠ []) :
    assembleLine? (m ++ ' ' :: t) = (statement? m t).bind AsmLine.assemble := by
  rw [assembleLine?_words hm (fun h => (ht _ h).2.2 rfl), trimBlanks_plain ht]
  have := trimBlanks_of_ends (mid := [' ']) hm hmne ht htne
  simpa using this

/-- A line with two operand texts. -/
theorem assembleLine?_two {m t u : List Char} (hm : Plain m) (hmne : m ≠ []) (ht : Plain t) (htne : t ≠ [])
    (hu : Plain u) (hune : u ≠ []) :
    assembleLine? (m ++ ' ' :: (t ++ ',' :: ' ' :: u)) =
      (statement? m (t ++ ',' :: ' ' :: u)).bind AsmLine.assemble := by
  have inner : trimBlanks (t ++ ',' :: ' ' :: u) = t ++ ',' :: ' ' :: u := by
    simpa using trimBlanks_of_ends (mid := [',', ' ']) ht htne hu hune
  rw [assembleLine?_words hm, inner]
  · simp only [List.mem_append, List.mem_cons, not_or]
    exact ⟨fun h => (ht _ h).2.2 rfl, by decide, by decide, fun h => (hu _ h).2.2 rfl⟩
  · simpa using trimBlanks_of_ends (mid := ' ' :: (t ++ [',', ' '])) hm hmne hu hune

/-! ### Operand lists -/

theorem splitOn_plain {t : List Char} {sep : Char} (h : sep ∉ t) : t.splitOn sep = [t] := by
  induction t with
  | nil => rfl
  | cons c t ih =>
    simp only [List.mem_cons, not_or] at h
    have ih' := ih h.2
    rw [List.splitOn] at ih' ⊢
    rw [List.splitOnP_cons_eq_if_modifyHead, ih', if_neg (by simpa using Ne.symm h.1)]
    rfl

theorem splitOn_append {t : List Char} {sep : Char} (h : sep ∉ t) (u : List Char) :
    (t ++ sep :: u).splitOn sep = t :: u.splitOn sep := by
  refine List.splitOnP_append_cons_of_forall_mem (fun ch hc => ?_) sep (by simp) u
  simp only [beq_eq_false_iff_ne]
  rintro rfl
  exact h hc

theorem operands?_one {t : List Char} (ht : Plain t) (htne : t ≠ []) :
    operands? t = (number? t).map fun v => [v] := by
  rw [operands?, if_neg htne, splitOn_plain fun h => (ht _ h).2.1 rfl]
  simp only [List.map_cons, List.map_nil, List.foldr_cons, List.foldr_nil, trimBlanks_plain ht]
  cases number? t <;> rfl

theorem operands?_two {t u : List Char} (ht : Plain t) (hu : Plain u) :
    operands? (t ++ ',' :: ' ' :: u) =
      (number? t).bind fun v => (number? u).map fun w => [v, w] := by
  have split : (t ++ ',' :: ' ' :: u).splitOn ',' = [t, ' ' :: u] := by
    rw [splitOn_append fun h => (ht _ h).2.1 rfl, splitOn_plain]
    simp only [List.mem_cons, not_or]
    exact ⟨by decide, fun h => (hu _ h).2.1 rfl⟩
  rw [operands?, if_neg (by simp), split]
  simp only [List.map_cons, List.map_nil, List.foldr_cons, List.foldr_nil, trimBlanks_space, trimBlanks_plain ht,
    trimBlanks_plain hu]
  cases number? t <;> cases number? u <;> rfl

/-! ### Programs -/

theorem assemble?_line {line : List Char} (h : '\n' ∉ line) :
    assemble? (String.ofList line) = assembleLine? line := by
  rw [assemble?, String.toList_ofList, splitOn_plain h]
  simp only [List.map_cons, List.map_nil, List.foldr_cons, List.foldr_nil]
  cases assembleLine? line <;> simp

/-- A program is its first line and then the rest (R79). -/
theorem assemble?_cons {line : List Char} (h : '\n' ∉ line) (rest : List Char) :
    assemble? (String.ofList (line ++ '\n' :: rest)) =
      (assembleLine? line).bind fun es => (assemble? (String.ofList rest)).map fun es' => es ++ es' := by
  simp only [assemble?, String.toList_ofList]
  rw [splitOn_append h, List.map_cons, List.foldr_cons]
  generalize List.foldr _ _ _ = o
  cases assembleLine? line <;> cases o <;> rfl

end Sys2Proof.Machine
end

