-- ==== Sys2Proof/Laws/Memory.lean ====
section
/-! SUPPORT. The pixel spaces: what is read after a write, and that every operation keeps the canonical form. -/

namespace Sys2Proof

theorem Coord.before_iff (a b : Coord) : a.before b = true ↔ a.y < b.y ∨ (a.y = b.y ∧ a.x < b.x) := by
  simp [Coord.before]

theorem Coord.before_irrefl (a : Coord) : a.before a = false := by
  simp [Coord.before]

theorem Coord.before_trans {a b c : Coord} (h : a.before b = true) (h' : b.before c = true) : a.before c = true := by
  simp only [Coord.before_iff] at *
  omega

/-- Raster order is total. -/
theorem Coord.before_of_not {a b : Coord} (h : a.before b = false) (hne : a ≠ b) : b.before a = true := by
  have h' : ¬ a.before b = true := by simp [h]
  rw [Coord.before_iff] at *
  have : ¬ (a.x = b.x ∧ a.y = b.y) := by
    rintro ⟨hx, hy⟩
    exact hne (by cases a; cases b; simp_all)
  omega

theorem Coord.inside_iff (a : Coord) (w h : Nat) : a.inside w h = true ↔ a.x < w ∧ a.y < h := by
  simp [Coord.inside]

end Sys2Proof

namespace Sys2Proof.Machine

variable (m : Memory) (a b : Coord) (p : Pixel)

@[simp] theorem lookup_nil : Memory.lookup [] a = none := rfl

/-- A read after a write to the same coordinate. -/
@[simp] theorem lookup_insert_self : (m.insert a p).lookup a = some p := by
  induction m with
  | nil => simp [Memory.insert, Memory.lookup]
  | cons cell m ih =>
    obtain ⟨k, q⟩ := cell
    unfold Memory.insert
    split_ifs with h1 h2
    · simp [Memory.lookup]
    · simp [Memory.lookup]
    · simp [Memory.lookup, h2, ih]

/-- A write leaves every other coordinate alone. -/
theorem lookup_insert_other (h : b ≠ a) : (m.insert a p).lookup b = m.lookup b := by
  induction m with
  | nil => simp [Memory.insert, Memory.lookup, h.symm]
  | cons cell m ih =>
    obtain ⟨k, q⟩ := cell
    unfold Memory.insert
    split_ifs with h1 h2
    · simp [Memory.lookup, h.symm]
    · subst h2
      simp [Memory.lookup, h.symm]
    · simp [Memory.lookup, ih]

theorem lookup_insert : (m.insert a p).lookup b = if b = a then some p else m.lookup b := by
  split_ifs with h
  · subst h
    simp
  · exact lookup_insert_other m a b p h

theorem lookup_erase : (m.erase a).lookup b = if b = a then none else m.lookup b := by
  induction m with
  | nil => simp [Memory.erase, Memory.lookup]
  | cons cell m ih =>
    obtain ⟨k, q⟩ := cell
    unfold Memory.erase at *
    by_cases hk : k = a <;> by_cases hb : b = a <;>
      simp_all [Memory.lookup]
    intro hkb
    exact absurd hkb (Ne.symm hb)

theorem lookup_put (o : Option Pixel) : (m.put a o).lookup b = if b = a then o else m.lookup b := by
  cases o with
  | none => exact lookup_erase m a b
  | some p => exact lookup_insert m a b p

/-! ### The canonical form -/

/-- `Memory.wf` as a pairwise order. -/
theorem wf_iff_pairwise : m.wf = true ↔ List.Pairwise (fun x y : Coord × Pixel => x.1.before y.1 = true) m := by
  induction m with
  | nil => simp [Memory.wf]
  | cons cell m ih =>
    cases m with
    | nil => simp [Memory.wf]
    | cons cell' m =>
      simp only [Memory.wf, Bool.and_eq_true, ih, List.pairwise_cons]
      constructor
      · rintro ⟨h1, h2, h3⟩
        refine ⟨?_, h2, h3⟩
        rintro x hx
        rcases List.mem_cons.1 hx with rfl | hx
        · exact h1
        · exact Coord.before_trans h1 (h2 x hx)
      · rintro ⟨h1, h2, h3⟩
        exact ⟨h1 cell' (by simp), h2, h3⟩

theorem mem_insert {x : Coord × Pixel} (h : x ∈ m.insert a p) : x = (a, p) ∨ x ∈ m := by
  induction m with
  | nil => simpa [Memory.insert] using h
  | cons cell m ih =>
    obtain ⟨k, q⟩ := cell
    unfold Memory.insert at h
    split_ifs at h with h1 h2
    · simpa using h
    · rcases List.mem_cons.1 h with h | h
      · exact .inl h
      · exact .inr (List.mem_cons_of_mem _ h)
    · rcases List.mem_cons.1 h with h | h
      · exact .inr (by simp [h])
      · rcases ih h with h | h
        · exact .inl h
        · exact .inr (List.mem_cons_of_mem _ h)

theorem wf_insert (h : m.wf = true) : (m.insert a p).wf = true := by
  rw [wf_iff_pairwise] at *
  induction m with
  | nil => simp [Memory.insert]
  | cons cell m ih =>
    obtain ⟨k, q⟩ := cell
    rw [List.pairwise_cons] at h
    unfold Memory.insert
    split_ifs with h1 h2
    · refine List.pairwise_cons.2 ⟨?_, List.pairwise_cons.2 h⟩
      intro x hx
      rcases List.mem_cons.1 hx with rfl | hx
      · exact h1
      · exact Coord.before_trans h1 (h.1 x hx)
    · subst h2
      exact List.pairwise_cons.2 h
    · refine List.pairwise_cons.2 ⟨?_, ih h.2⟩
      intro x hx
      rcases mem_insert m a p hx with rfl | hx
      · exact Coord.before_of_not (by simpa using h1) (Ne.symm h2)
      · exact h.1 x hx

theorem wf_erase (h : m.wf = true) : (m.erase a).wf = true := by
  rw [wf_iff_pairwise] at *
  exact h.filter _

theorem wf_put (o : Option Pixel) (h : m.wf = true) : (m.put a o).wf = true := by
  cases o with
  | none => exact wf_erase m a h
  | some p => exact wf_insert m a p h

/-- Storing into the source image keeps its canonical form. -/
theorem srcWf_storeSrc (h : m.srcWf = true) : (m.storeSrc a p).srcWf = true := by
  simp only [Memory.srcWf, Bool.and_eq_true, List.all_eq_true, decide_eq_true_eq] at *
  refine ⟨wf_put _ _ _ h.1, ?_⟩
  unfold Memory.storeSrc
  intro x hx
  split_ifs at hx with hp
  · exact h.2 x (List.mem_of_mem_filter hx)
  · rcases mem_insert m a p hx with rfl | hx
    · exact hp
    · exact h.2 x hx

/-- What a source read gives after a store. -/
theorem storeSrc_read : ((m.storeSrc a p).lookup b).getD black = if b = a then p else (m.lookup b).getD black := by
  unfold Memory.storeSrc
  rw [lookup_put]
  split_ifs with h1 h2 <;> simp_all

theorem lookup_none_of_before {m : Memory} {a : Coord}
    (h : ∀ x ∈ m, a.before x.1 = true) : m.lookup a = none := by
  induction m with
  | nil => rfl
  | cons cell m ih =>
    obtain ⟨k, q⟩ := cell
    have hk : k ≠ a := by
      rintro rfl
      have := h (k, q) (by simp)
      simp [Coord.before_irrefl] at this
    simp only [Memory.lookup, hk, if_false]
    exact ih fun x hx => h x (by simp [hx])

/-- Equal memories are equal data: two canonical memories that list the same pixels are the same list. -/
theorem wf_ext {m m' : Memory} (h : m.wf = true) (h' : m'.wf = true)
    (heq : ∀ a : Coord, m.lookup a = m'.lookup a) : m = m' := by
  rw [wf_iff_pairwise] at h h'
  induction m generalizing m' with
  | nil =>
    cases m' with
    | nil => rfl
    | cons cell m' =>
      obtain ⟨k, q⟩ := cell
      simpa [Memory.lookup] using heq k
  | cons cell m ih =>
    obtain ⟨k, q⟩ := cell
    rw [List.pairwise_cons] at h
    cases m' with
    | nil => simpa [Memory.lookup] using heq k
    | cons cell' m' =>
      obtain ⟨k', q'⟩ := cell'
      rw [List.pairwise_cons] at h'
      have hk : k = k' := by
        by_contra hne
        rcases Bool.eq_false_or_eq_true (k.before k') with hb | hb
        · have := heq k
          rw [lookup_none_of_before (m := (k', q') :: m') (a := k)] at this
          · simp [Memory.lookup] at this
          · intro x hx
            rcases List.mem_cons.1 hx with rfl | hx
            · exact hb
            · exact Coord.before_trans hb (h'.1 x hx)
        · have hb' := Coord.before_of_not hb hne
          have := heq k'
          rw [lookup_none_of_before (m := (k, q) :: m) (a := k')] at this
          · simp [Memory.lookup] at this
          · intro x hx
            rcases List.mem_cons.1 hx with rfl | hx
            · exact hb'
            · exact Coord.before_trans hb' (h.1 x hx)
      subst hk
      have hq : q = q' := by simpa [Memory.lookup] using heq k
      subst hq
      congr 1
      refine ih h.2 h'.2 fun a => ?_
      by_cases ha : k = a
      · subst ha
        rw [lookup_none_of_before (fun x hx => h.1 x hx), lookup_none_of_before (fun x hx => h'.1 x hx)]
      · simpa [Memory.lookup, ha] using heq a

/-- The reset images have the canonical form. -/
theorem reset_canonical : State.reset.src.srcWf = true ∧ State.reset.dst.wf = true ∧ State.reset.dstBefore.wf = true :=
  ⟨rfl, rfl, rfl⟩

end Sys2Proof.Machine
end

