-- ==== Sys2Proof/Laws/State.lean ====
section
/-! SUPPORT. What each named update of the state does to each field, so that no proof unfolds a record update. -/

namespace Sys2Proof.Machine

/-! ### `recordError` -/

@[simp] theorem recordError_maskStrength (e : ErrCode) (s : State) : (recordError e s).maskStrength = s.maskStrength := rfl
@[simp] theorem recordError_gapStrength (e : ErrCode) (s : State) : (recordError e s).gapStrength = s.gapStrength := rfl
@[simp] theorem recordError_width (e : ErrCode) (s : State) : (recordError e s).width = s.width := rfl
@[simp] theorem recordError_height (e : ErrCode) (s : State) : (recordError e s).height = s.height := rfl
@[simp] theorem recordError_tile (e : ErrCode) (s : State) : (recordError e s).tile = s.tile := rfl
@[simp] theorem recordError_curRow (e : ErrCode) (s : State) : (recordError e s).curRow = s.curRow := rfl
@[simp] theorem recordError_curCol (e : ErrCode) (s : State) : (recordError e s).curCol = s.curCol := rfl
@[simp] theorem recordError_prev (e : ErrCode) (s : State) : (recordError e s).prev = s.prev := rfl
@[simp] theorem recordError_curPix (e : ErrCode) (s : State) : (recordError e s).curPix = s.curPix := rfl
@[simp] theorem recordError_sx (e : ErrCode) (s : State) : (recordError e s).sx = s.sx := rfl
@[simp] theorem recordError_sy (e : ErrCode) (s : State) : (recordError e s).sy = s.sy := rfl
@[simp] theorem recordError_sj (e : ErrCode) (s : State) : (recordError e s).sj = s.sj := rfl
@[simp] theorem recordError_si (e : ErrCode) (s : State) : (recordError e s).si = s.si := rfl
@[simp] theorem recordError_busy (e : ErrCode) (s : State) : (recordError e s).busy = s.busy := rfl
@[simp] theorem recordError_done (e : ErrCode) (s : State) : (recordError e s).done = s.done := rfl
@[simp] theorem recordError_err (e : ErrCode) (s : State) : (recordError e s).err = true := rfl
@[simp] theorem recordError_errCode (e : ErrCode) (s : State) : (recordError e s).errCode = if s.err then s.errCode else e := rfl
@[simp] theorem recordError_result (e : ErrCode) (s : State) : (recordError e s).result = s.result := rfl
@[simp] theorem recordError_src (e : ErrCode) (s : State) : (recordError e s).src = s.src := rfl
@[simp] theorem recordError_dst (e : ErrCode) (s : State) : (recordError e s).dst = s.dst := rfl
@[simp] theorem recordError_allocWidth (e : ErrCode) (s : State) : (recordError e s).allocWidth = s.allocWidth := rfl
@[simp] theorem recordError_allocHeight (e : ErrCode) (s : State) : (recordError e s).allocHeight = s.allocHeight := rfl
@[simp] theorem recordError_dstBefore (e : ErrCode) (s : State) : (recordError e s).dstBefore = s.dstBefore := rfl
@[simp] theorem recordError_agenda (e : ErrCode) (s : State) : (recordError e s).agenda = s.agenda := rfl
@[simp] theorem recordError_delivered (e : ErrCode) (s : State) : (recordError e s).delivered = s.delivered := rfl
@[simp] theorem recordError_draws (e : ErrCode) (s : State) : (recordError e s).draws = s.draws := rfl

/-! ### `loadTile` -/

@[simp] theorem loadTile_maskStrength (c : Config) (s : State) : (loadTile c s).maskStrength = s.maskStrength := rfl
@[simp] theorem loadTile_gapStrength (c : Config) (s : State) : (loadTile c s).gapStrength = s.gapStrength := rfl
@[simp] theorem loadTile_width (c : Config) (s : State) : (loadTile c s).width = s.width := rfl
@[simp] theorem loadTile_height (c : Config) (s : State) : (loadTile c s).height = s.height := rfl
@[simp] theorem loadTile_tile (c : Config) (s : State) : (loadTile c s).tile = genTile c s.maskStrength s.gapStrength := rfl
@[simp] theorem loadTile_curRow (c : Config) (s : State) : (loadTile c s).curRow = s.curRow := rfl
@[simp] theorem loadTile_curCol (c : Config) (s : State) : (loadTile c s).curCol = s.curCol := rfl
@[simp] theorem loadTile_prev (c : Config) (s : State) : (loadTile c s).prev = s.prev := rfl
@[simp] theorem loadTile_curPix (c : Config) (s : State) : (loadTile c s).curPix = s.curPix := rfl
@[simp] theorem loadTile_sx (c : Config) (s : State) : (loadTile c s).sx = s.sx := rfl
@[simp] theorem loadTile_sy (c : Config) (s : State) : (loadTile c s).sy = s.sy := rfl
@[simp] theorem loadTile_sj (c : Config) (s : State) : (loadTile c s).sj = s.sj := rfl
@[simp] theorem loadTile_si (c : Config) (s : State) : (loadTile c s).si = s.si := rfl
@[simp] theorem loadTile_busy (c : Config) (s : State) : (loadTile c s).busy = s.busy := rfl
@[simp] theorem loadTile_done (c : Config) (s : State) : (loadTile c s).done = s.done := rfl
@[simp] theorem loadTile_err (c : Config) (s : State) : (loadTile c s).err = s.err := rfl
@[simp] theorem loadTile_errCode (c : Config) (s : State) : (loadTile c s).errCode = s.errCode := rfl
@[simp] theorem loadTile_result (c : Config) (s : State) : (loadTile c s).result = s.result := rfl
@[simp] theorem loadTile_src (c : Config) (s : State) : (loadTile c s).src = s.src := rfl
@[simp] theorem loadTile_dst (c : Config) (s : State) : (loadTile c s).dst = s.dst := rfl
@[simp] theorem loadTile_allocWidth (c : Config) (s : State) : (loadTile c s).allocWidth = s.allocWidth := rfl
@[simp] theorem loadTile_allocHeight (c : Config) (s : State) : (loadTile c s).allocHeight = s.allocHeight := rfl
@[simp] theorem loadTile_dstBefore (c : Config) (s : State) : (loadTile c s).dstBefore = s.dstBefore := rfl
@[simp] theorem loadTile_agenda (c : Config) (s : State) : (loadTile c s).agenda = s.agenda := rfl
@[simp] theorem loadTile_delivered (c : Config) (s : State) : (loadTile c s).delivered = s.delivered := rfl
@[simp] theorem loadTile_draws (c : Config) (s : State) : (loadTile c s).draws = s.draws := rfl

/-! ### `deliver` -/

@[simp] theorem deliver_maskStrength (d : Delivered) (s : State) : (s.deliver d).maskStrength = s.maskStrength := rfl
@[simp] theorem deliver_gapStrength (d : Delivered) (s : State) : (s.deliver d).gapStrength = s.gapStrength := rfl
@[simp] theorem deliver_width (d : Delivered) (s : State) : (s.deliver d).width = s.width := rfl
@[simp] theorem deliver_height (d : Delivered) (s : State) : (s.deliver d).height = s.height := rfl
@[simp] theorem deliver_tile (d : Delivered) (s : State) : (s.deliver d).tile = s.tile := rfl
@[simp] theorem deliver_curRow (d : Delivered) (s : State) : (s.deliver d).curRow = s.curRow := rfl
@[simp] theorem deliver_curCol (d : Delivered) (s : State) : (s.deliver d).curCol = s.curCol := rfl
@[simp] theorem deliver_prev (d : Delivered) (s : State) : (s.deliver d).prev = s.prev := rfl
@[simp] theorem deliver_curPix (d : Delivered) (s : State) : (s.deliver d).curPix = s.curPix := rfl
@[simp] theorem deliver_sx (d : Delivered) (s : State) : (s.deliver d).sx = s.sx := rfl
@[simp] theorem deliver_sy (d : Delivered) (s : State) : (s.deliver d).sy = s.sy := rfl
@[simp] theorem deliver_sj (d : Delivered) (s : State) : (s.deliver d).sj = s.sj := rfl
@[simp] theorem deliver_si (d : Delivered) (s : State) : (s.deliver d).si = s.si := rfl
@[simp] theorem deliver_busy (d : Delivered) (s : State) : (s.deliver d).busy = s.busy := rfl
@[simp] theorem deliver_done (d : Delivered) (s : State) : (s.deliver d).done = s.done := rfl
@[simp] theorem deliver_err (d : Delivered) (s : State) : (s.deliver d).err = s.err := rfl
@[simp] theorem deliver_errCode (d : Delivered) (s : State) : (s.deliver d).errCode = s.errCode := rfl
@[simp] theorem deliver_result (d : Delivered) (s : State) : (s.deliver d).result = s.result := rfl
@[simp] theorem deliver_src (d : Delivered) (s : State) : (s.deliver d).src = s.src := rfl
@[simp] theorem deliver_dst (d : Delivered) (s : State) : (s.deliver d).dst = s.dst := rfl
@[simp] theorem deliver_allocWidth (d : Delivered) (s : State) : (s.deliver d).allocWidth = s.allocWidth := rfl
@[simp] theorem deliver_allocHeight (d : Delivered) (s : State) : (s.deliver d).allocHeight = s.allocHeight := rfl
@[simp] theorem deliver_dstBefore (d : Delivered) (s : State) : (s.deliver d).dstBefore = s.dstBefore := rfl
@[simp] theorem deliver_agenda (d : Delivered) (s : State) : (s.deliver d).agenda = s.agenda := rfl
@[simp] theorem deliver_delivered (d : Delivered) (s : State) : (s.deliver d).delivered = d :: s.delivered := rfl
@[simp] theorem deliver_draws (d : Delivered) (s : State) : (s.deliver d).draws = s.draws := rfl

/-! ### `drawn` -/

@[simp] theorem drawn_maskStrength (s : State) : s.drawn.maskStrength = s.maskStrength := rfl
@[simp] theorem drawn_gapStrength (s : State) : s.drawn.gapStrength = s.gapStrength := rfl
@[simp] theorem drawn_width (s : State) : s.drawn.width = s.width := rfl
@[simp] theorem drawn_height (s : State) : s.drawn.height = s.height := rfl
@[simp] theorem drawn_tile (s : State) : s.drawn.tile = s.tile := rfl
@[simp] theorem drawn_curRow (s : State) : s.drawn.curRow = s.curRow := rfl
@[simp] theorem drawn_curCol (s : State) : s.drawn.curCol = s.curCol := rfl
@[simp] theorem drawn_prev (s : State) : s.drawn.prev = s.prev := rfl
@[simp] theorem drawn_curPix (s : State) : s.drawn.curPix = s.curPix := rfl
@[simp] theorem drawn_sx (s : State) : s.drawn.sx = s.sx := rfl
@[simp] theorem drawn_sy (s : State) : s.drawn.sy = s.sy := rfl
@[simp] theorem drawn_sj (s : State) : s.drawn.sj = s.sj := rfl
@[simp] theorem drawn_si (s : State) : s.drawn.si = s.si := rfl
@[simp] theorem drawn_busy (s : State) : s.drawn.busy = s.busy := rfl
@[simp] theorem drawn_done (s : State) : s.drawn.done = s.done := rfl
@[simp] theorem drawn_err (s : State) : s.drawn.err = s.err := rfl
@[simp] theorem drawn_errCode (s : State) : s.drawn.errCode = s.errCode := rfl
@[simp] theorem drawn_result (s : State) : s.drawn.result = s.result := rfl
@[simp] theorem drawn_src (s : State) : s.drawn.src = s.src := rfl
@[simp] theorem drawn_dst (s : State) : s.drawn.dst = s.dst := rfl
@[simp] theorem drawn_allocWidth (s : State) : s.drawn.allocWidth = s.allocWidth := rfl
@[simp] theorem drawn_allocHeight (s : State) : s.drawn.allocHeight = s.allocHeight := rfl
@[simp] theorem drawn_dstBefore (s : State) : s.drawn.dstBefore = s.dstBefore := rfl
@[simp] theorem drawn_agenda (s : State) : s.drawn.agenda = s.agenda := rfl
@[simp] theorem drawn_delivered (s : State) : s.drawn.delivered = s.delivered := rfl
@[simp] theorem drawn_draws (s : State) : s.drawn.draws = s.draws + 1 := rfl

/-! ### `dstWrite` -/

@[simp] theorem dstWrite_maskStrength (a : Coord) (p : Pixel) (s : State) : (s.dstWrite a p).maskStrength = s.maskStrength := rfl
@[simp] theorem dstWrite_gapStrength (a : Coord) (p : Pixel) (s : State) : (s.dstWrite a p).gapStrength = s.gapStrength := rfl
@[simp] theorem dstWrite_width (a : Coord) (p : Pixel) (s : State) : (s.dstWrite a p).width = s.width := rfl
@[simp] theorem dstWrite_height (a : Coord) (p : Pixel) (s : State) : (s.dstWrite a p).height = s.height := rfl
@[simp] theorem dstWrite_tile (a : Coord) (p : Pixel) (s : State) : (s.dstWrite a p).tile = s.tile := rfl
@[simp] theorem dstWrite_curRow (a : Coord) (p : Pixel) (s : State) : (s.dstWrite a p).curRow = s.curRow := rfl
@[simp] theorem dstWrite_curCol (a : Coord) (p : Pixel) (s : State) : (s.dstWrite a p).curCol = s.curCol := rfl
@[simp] theorem dstWrite_prev (a : Coord) (p : Pixel) (s : State) : (s.dstWrite a p).prev = s.prev := rfl
@[simp] theorem dstWrite_curPix (a : Coord) (p : Pixel) (s : State) : (s.dstWrite a p).curPix = s.curPix := rfl
@[simp] theorem dstWrite_sx (a : Coord) (p : Pixel) (s : State) : (s.dstWrite a p).sx = s.sx := rfl
@[simp] theorem dstWrite_sy (a : Coord) (p : Pixel) (s : State) : (s.dstWrite a p).sy = s.sy := rfl
@[simp] theorem dstWrite_sj (a : Coord) (p : Pixel) (s : State) : (s.dstWrite a p).sj = s.sj := rfl
@[simp] theorem dstWrite_si (a : Coord) (p : Pixel) (s : State) : (s.dstWrite a p).si = s.si := rfl
@[simp] theorem dstWrite_busy (a : Coord) (p : Pixel) (s : State) : (s.dstWrite a p).busy = s.busy := rfl
@[simp] theorem dstWrite_done (a : Coord) (p : Pixel) (s : State) : (s.dstWrite a p).done = s.done := rfl
@[simp] theorem dstWrite_err (a : Coord) (p : Pixel) (s : State) : (s.dstWrite a p).err = s.err := rfl
@[simp] theorem dstWrite_errCode (a : Coord) (p : Pixel) (s : State) : (s.dstWrite a p).errCode = s.errCode := rfl
@[simp] theorem dstWrite_result (a : Coord) (p : Pixel) (s : State) : (s.dstWrite a p).result = s.result := rfl
@[simp] theorem dstWrite_src (a : Coord) (p : Pixel) (s : State) : (s.dstWrite a p).src = s.src := rfl
@[simp] theorem dstWrite_dst (a : Coord) (p : Pixel) (s : State) : (s.dstWrite a p).dst = s.dst.insert a p := rfl
@[simp] theorem dstWrite_allocWidth (a : Coord) (p : Pixel) (s : State) : (s.dstWrite a p).allocWidth = s.allocWidth := rfl
@[simp] theorem dstWrite_allocHeight (a : Coord) (p : Pixel) (s : State) : (s.dstWrite a p).allocHeight = s.allocHeight := rfl
@[simp] theorem dstWrite_dstBefore (a : Coord) (p : Pixel) (s : State) : (s.dstWrite a p).dstBefore = s.dstBefore := rfl
@[simp] theorem dstWrite_agenda (a : Coord) (p : Pixel) (s : State) : (s.dstWrite a p).agenda = s.agenda := rfl
@[simp] theorem dstWrite_delivered (a : Coord) (p : Pixel) (s : State) : (s.dstWrite a p).delivered = s.delivered := rfl
@[simp] theorem dstWrite_draws (a : Coord) (p : Pixel) (s : State) : (s.dstWrite a p).draws = s.draws := rfl

/-! ### `beginBusy` -/

@[simp] theorem beginBusy_maskStrength (s : State) : s.beginBusy.maskStrength = s.maskStrength := rfl
@[simp] theorem beginBusy_gapStrength (s : State) : s.beginBusy.gapStrength = s.gapStrength := rfl
@[simp] theorem beginBusy_width (s : State) : s.beginBusy.width = s.width := rfl
@[simp] theorem beginBusy_height (s : State) : s.beginBusy.height = s.height := rfl
@[simp] theorem beginBusy_tile (s : State) : s.beginBusy.tile = s.tile := rfl
@[simp] theorem beginBusy_curRow (s : State) : s.beginBusy.curRow = s.curRow := rfl
@[simp] theorem beginBusy_curCol (s : State) : s.beginBusy.curCol = s.curCol := rfl
@[simp] theorem beginBusy_prev (s : State) : s.beginBusy.prev = s.prev := rfl
@[simp] theorem beginBusy_curPix (s : State) : s.beginBusy.curPix = s.curPix := rfl
@[simp] theorem beginBusy_sx (s : State) : s.beginBusy.sx = s.sx := rfl
@[simp] theorem beginBusy_sy (s : State) : s.beginBusy.sy = s.sy := rfl
@[simp] theorem beginBusy_sj (s : State) : s.beginBusy.sj = s.sj := rfl
@[simp] theorem beginBusy_si (s : State) : s.beginBusy.si = s.si := rfl
@[simp] theorem beginBusy_busy (s : State) : s.beginBusy.busy = true := rfl
@[simp] theorem beginBusy_done (s : State) : s.beginBusy.done = s.done := rfl
@[simp] theorem beginBusy_err (s : State) : s.beginBusy.err = s.err := rfl
@[simp] theorem beginBusy_errCode (s : State) : s.beginBusy.errCode = s.errCode := rfl
@[simp] theorem beginBusy_result (s : State) : s.beginBusy.result = s.result := rfl
@[simp] theorem beginBusy_src (s : State) : s.beginBusy.src = s.src := rfl
@[simp] theorem beginBusy_dst (s : State) : s.beginBusy.dst = s.dst := rfl
@[simp] theorem beginBusy_allocWidth (s : State) : s.beginBusy.allocWidth = s.allocWidth := rfl
@[simp] theorem beginBusy_allocHeight (s : State) : s.beginBusy.allocHeight = s.allocHeight := rfl
@[simp] theorem beginBusy_dstBefore (s : State) : s.beginBusy.dstBefore = s.dst := rfl
@[simp] theorem beginBusy_agenda (s : State) : s.beginBusy.agenda = s.agenda := rfl
@[simp] theorem beginBusy_delivered (s : State) : s.beginBusy.delivered = s.delivered := rfl
@[simp] theorem beginBusy_draws (s : State) : s.beginBusy.draws = s.draws := rfl

/-! ### `finishRender` -/

@[simp] theorem finishRender_maskStrength (s : State) : s.finishRender.maskStrength = s.maskStrength := rfl
@[simp] theorem finishRender_gapStrength (s : State) : s.finishRender.gapStrength = s.gapStrength := rfl
@[simp] theorem finishRender_width (s : State) : s.finishRender.width = s.width := rfl
@[simp] theorem finishRender_height (s : State) : s.finishRender.height = s.height := rfl
@[simp] theorem finishRender_tile (s : State) : s.finishRender.tile = s.tile := rfl
@[simp] theorem finishRender_curRow (s : State) : s.finishRender.curRow = s.curRow := rfl
@[simp] theorem finishRender_curCol (s : State) : s.finishRender.curCol = s.curCol := rfl
@[simp] theorem finishRender_prev (s : State) : s.finishRender.prev = s.prev := rfl
@[simp] theorem finishRender_curPix (s : State) : s.finishRender.curPix = s.curPix := rfl
@[simp] theorem finishRender_sx (s : State) : s.finishRender.sx = s.sx := rfl
@[simp] theorem finishRender_sy (s : State) : s.finishRender.sy = s.sy := rfl
@[simp] theorem finishRender_sj (s : State) : s.finishRender.sj = s.sj := rfl
@[simp] theorem finishRender_si (s : State) : s.finishRender.si = s.si := rfl
@[simp] theorem finishRender_busy (s : State) : s.finishRender.busy = false := rfl
@[simp] theorem finishRender_done (s : State) : s.finishRender.done = true := rfl
@[simp] theorem finishRender_err (s : State) : s.finishRender.err = s.err := rfl
@[simp] theorem finishRender_errCode (s : State) : s.finishRender.errCode = s.errCode := rfl
@[simp] theorem finishRender_result (s : State) : s.finishRender.result = s.result := rfl
@[simp] theorem finishRender_src (s : State) : s.finishRender.src = s.src := rfl
@[simp] theorem finishRender_dst (s : State) : s.finishRender.dst = s.dst := rfl
@[simp] theorem finishRender_allocWidth (s : State) : s.finishRender.allocWidth = s.allocWidth := rfl
@[simp] theorem finishRender_allocHeight (s : State) : s.finishRender.allocHeight = s.allocHeight := rfl
@[simp] theorem finishRender_dstBefore (s : State) : s.finishRender.dstBefore = [] := rfl
@[simp] theorem finishRender_agenda (s : State) : s.finishRender.agenda = s.agenda := rfl
@[simp] theorem finishRender_delivered (s : State) : s.finishRender.delivered = s.delivered := rfl
@[simp] theorem finishRender_draws (s : State) : s.finishRender.draws = s.draws := rfl

/-! ### `clearFlags` -/

@[simp] theorem clearFlags_maskStrength (s : State) : s.clearFlags.maskStrength = s.maskStrength := rfl
@[simp] theorem clearFlags_gapStrength (s : State) : s.clearFlags.gapStrength = s.gapStrength := rfl
@[simp] theorem clearFlags_width (s : State) : s.clearFlags.width = s.width := rfl
@[simp] theorem clearFlags_height (s : State) : s.clearFlags.height = s.height := rfl
@[simp] theorem clearFlags_tile (s : State) : s.clearFlags.tile = s.tile := rfl
@[simp] theorem clearFlags_curRow (s : State) : s.clearFlags.curRow = s.curRow := rfl
@[simp] theorem clearFlags_curCol (s : State) : s.clearFlags.curCol = s.curCol := rfl
@[simp] theorem clearFlags_prev (s : State) : s.clearFlags.prev = s.prev := rfl
@[simp] theorem clearFlags_curPix (s : State) : s.clearFlags.curPix = s.curPix := rfl
@[simp] theorem clearFlags_sx (s : State) : s.clearFlags.sx = s.sx := rfl
@[simp] theorem clearFlags_sy (s : State) : s.clearFlags.sy = s.sy := rfl
@[simp] theorem clearFlags_sj (s : State) : s.clearFlags.sj = s.sj := rfl
@[simp] theorem clearFlags_si (s : State) : s.clearFlags.si = s.si := rfl
@[simp] theorem clearFlags_busy (s : State) : s.clearFlags.busy = s.busy := rfl
@[simp] theorem clearFlags_done (s : State) : s.clearFlags.done = false := rfl
@[simp] theorem clearFlags_err (s : State) : s.clearFlags.err = false := rfl
@[simp] theorem clearFlags_errCode (s : State) : s.clearFlags.errCode = .noError := rfl
@[simp] theorem clearFlags_result (s : State) : s.clearFlags.result = s.result := rfl
@[simp] theorem clearFlags_src (s : State) : s.clearFlags.src = s.src := rfl
@[simp] theorem clearFlags_dst (s : State) : s.clearFlags.dst = s.dst := rfl
@[simp] theorem clearFlags_allocWidth (s : State) : s.clearFlags.allocWidth = s.allocWidth := rfl
@[simp] theorem clearFlags_allocHeight (s : State) : s.clearFlags.allocHeight = s.allocHeight := rfl
@[simp] theorem clearFlags_dstBefore (s : State) : s.clearFlags.dstBefore = s.dstBefore := rfl
@[simp] theorem clearFlags_agenda (s : State) : s.clearFlags.agenda = s.agenda := rfl
@[simp] theorem clearFlags_delivered (s : State) : s.clearFlags.delivered = s.delivered := rfl
@[simp] theorem clearFlags_draws (s : State) : s.clearFlags.draws = s.draws := rfl

/-! ### `prepareRender` -/

@[simp] theorem prepareRender_maskStrength (c : Config) (s : State) : (s.prepareRender c).maskStrength = s.maskStrength := rfl
@[simp] theorem prepareRender_gapStrength (c : Config) (s : State) : (s.prepareRender c).gapStrength = s.gapStrength := rfl
@[simp] theorem prepareRender_width (c : Config) (s : State) : (s.prepareRender c).width = s.width := rfl
@[simp] theorem prepareRender_height (c : Config) (s : State) : (s.prepareRender c).height = s.height := rfl
@[simp] theorem prepareRender_tile (c : Config) (s : State) : (s.prepareRender c).tile = genTile c s.maskStrength s.gapStrength := rfl
@[simp] theorem prepareRender_curRow (c : Config) (s : State) : (s.prepareRender c).curRow = 0 := rfl
@[simp] theorem prepareRender_curCol (c : Config) (s : State) : (s.prepareRender c).curCol = 0 := rfl
@[simp] theorem prepareRender_prev (c : Config) (s : State) : (s.prepareRender c).prev = black := rfl
@[simp] theorem prepareRender_curPix (c : Config) (s : State) : (s.prepareRender c).curPix = s.curPix := rfl
@[simp] theorem prepareRender_sx (c : Config) (s : State) : (s.prepareRender c).sx = 0 := rfl
@[simp] theorem prepareRender_sy (c : Config) (s : State) : (s.prepareRender c).sy = 0 := rfl
@[simp] theorem prepareRender_sj (c : Config) (s : State) : (s.prepareRender c).sj = 0 := rfl
@[simp] theorem prepareRender_si (c : Config) (s : State) : (s.prepareRender c).si = 0 := rfl
@[simp] theorem prepareRender_busy (c : Config) (s : State) : (s.prepareRender c).busy = s.busy := rfl
@[simp] theorem prepareRender_done (c : Config) (s : State) : (s.prepareRender c).done = false := rfl
@[simp] theorem prepareRender_err (c : Config) (s : State) : (s.prepareRender c).err = s.err := rfl
@[simp] theorem prepareRender_errCode (c : Config) (s : State) : (s.prepareRender c).errCode = s.errCode := rfl
@[simp] theorem prepareRender_result (c : Config) (s : State) : (s.prepareRender c).result = s.result := rfl
@[simp] theorem prepareRender_src (c : Config) (s : State) : (s.prepareRender c).src = s.src := rfl
@[simp] theorem prepareRender_dst (c : Config) (s : State) : (s.prepareRender c).dst = s.dst := rfl
@[simp] theorem prepareRender_allocWidth (c : Config) (s : State) : (s.prepareRender c).allocWidth = s.allocWidth := rfl
@[simp] theorem prepareRender_allocHeight (c : Config) (s : State) : (s.prepareRender c).allocHeight = s.allocHeight := rfl
@[simp] theorem prepareRender_dstBefore (c : Config) (s : State) : (s.prepareRender c).dstBefore = s.dstBefore := rfl
@[simp] theorem prepareRender_agenda (c : Config) (s : State) : (s.prepareRender c).agenda = s.agenda := rfl
@[simp] theorem prepareRender_delivered (c : Config) (s : State) : (s.prepareRender c).delivered = s.delivered := rfl
@[simp] theorem prepareRender_draws (c : Config) (s : State) : (s.prepareRender c).draws = s.draws := rfl

end Sys2Proof.Machine
end

