-- ==== Sys2Proof/Laws/Control.lean ====
section
/-! SUPPORT. Abort and reset: what each pixel holds after an abort, and what a reset leaves alone. -/

namespace Sys2Proof.Machine

theorem mem_regionCoords (w h : Nat) (a : Coord) : a ∈ regionCoords w h ↔ a.inside w h = true := by
  rw [Coord.inside_iff]
  simp only [regionCoords, List.mem_flatMap, List.mem_map, List.mem_range]
  constructor
  · rintro ⟨y, hy, x, hx, rfl⟩
    exact ⟨hx, hy⟩
  · rintro ⟨hx, hy⟩
    exact ⟨a.y, hy, a.x, hx, rfl⟩

/-- Putting a value at every coordinate of a list, in any order. -/
theorem lookup_foldl_put (f : Coord → Option Pixel) (as : List Coord) (m : Memory) (b : Coord) :
    (as.foldl (fun m a => m.put a (f a)) m).lookup b = if b ∈ as then f b else m.lookup b := by
  induction as generalizing m with
  | nil => simp
  | cons a as ih =>
    rw [List.foldl_cons, ih, lookup_put]
    by_cases h1 : b ∈ as <;> by_cases h2 : b = a <;> simp_all

theorem wf_foldl_put (f : Coord → Option Pixel) (as : List Coord) (m : Memory) (h : m.wf = true) :
    (as.foldl (fun m a => m.put a (f a)) m).wf = true := by
  induction as generalizing m with
  | nil => exact h
  | cons a as ih => exact ih _ (wf_put m a (f a) h)

/-- After an abort every pixel of the region is as drawn, and every other pixel as before (R181). -/
theorem abortRender_lookup (c : Config) (s : State) (a : Coord) :
    (abortRender c s).dst.lookup a = if s.inRegion a then s.abortedPixel c a else s.dst.lookup a := by
  have h := lookup_foldl_put (s.abortedPixel c)
    (regionCoords (scale * s.width.toNat) (scale * s.height.toNat)) s.dst a
  simp only [mem_regionCoords] at h
  exact h

theorem abortRender_wf (c : Config) (s : State) (h : s.dst.wf = true) : (abortRender c s).dst.wf = true :=
  wf_foldl_put _ _ _ h

/-- A reset of an idle block sets the registers and nothing else. -/
theorem resetBlock_idle (c : Config) (s : State) (h : s.busy = false) : resetBlock c s = resetRegisters s := by
  simp [resetBlock, h]

/-- A reset of a busy block aborts the render first (R180). -/
theorem resetBlock_busy (c : Config) (s : State) (h : s.busy = true) :
    resetBlock c s = resetRegisters (abortRender c s) := by
  simp [resetBlock, h]

/-- After a reset the block's registers are those of `State.reset`, whatever they were (R180). -/
theorem resetBlock_registers (c : Config) (s : State) :
    resetBlock c s =
      { State.reset with
        src := s.src
        dst := (resetBlock c s).dst
        allocWidth := s.allocWidth
        allocHeight := s.allocHeight
        agenda := s.agenda
        delivered := s.delivered
        draws := (resetBlock c s).draws } := by
  cases h : s.busy <;> simp [resetBlock, h, resetRegisters, abortRender]

end Sys2Proof.Machine
end

