-- ==== Sys2Proof/Laws/Encoding.lean ====
section
/-! SUPPORT. The bits of an encoded command, and what the decoder's table lookup gives. -/

namespace Sys2Proof

/-- Bit `k` of a command word: the operand bits below 24, the opcode above (R71, R72). -/
theorem encode_getLsbD (i : Instr) (k : Nat) :
    (encode i).getLsbD k = if k < 24 then i.operandBits.getLsbD k else i.op.opc.getLsbD (k - 24) := by
  simp only [encode, BitVec.getLsbD_append]

theorem opcField_getLsbD (w : Word) {k : Nat} (hk : k < 8) : (opcField w).getLsbD k = w.getLsbD (24 + k) := by
  simp [opcField, hk]

/-- The opcode field as the word shifted down (R71). -/
theorem shiftRight_eq_opcField (w : Word) : w >>> 24 = (opcField w).setWidth 32 := by
  apply BitVec.eq_of_toNat_eq
  have := w.isLt
  simp [opcField, Nat.shiftRight_eq_div_pow]
  omega

theorem shiftRight_eq_iff (w : Word) (b : BitVec 8) : w >>> 24 = b.setWidth 32 ↔ opcField w = b := by
  rw [shiftRight_eq_opcField]
  refine ⟨fun h => ?_, fun h => by rw [h]⟩
  have := congrArg (fun v : Word => v.setWidth 8) h
  simpa using this

/-- The opcode field of an encoded command is its row's opcode. -/
theorem opcField_encode (i : Instr) : opcField (encode i) = i.op.opc := by
  apply BitVec.eq_of_getLsbD_eq
  intro k hk
  rw [opcField_getLsbD _ hk, encode_getLsbD, if_neg (by omega)]
  congr 1
  omega

/-- The lookup finds each row by its opcode. -/
theorem ofOpc_opc (o : Op) : Op.ofOpc o.opc = some o := by
  cases o <;> decide

/-- A row the lookup gives has the opcode looked up. -/
theorem opc_of_ofOpc {b : BitVec 8} {o : Op} (h : Op.ofOpc b = some o) : o.opc = b := by
  simpa using List.find?_some h

/-- Bits `k` of the operand part, one equation a format (R72). -/
theorem operandBits_getLsbD (i : Instr) (k : Nat) :
    i.operandBits.getLsbD k =
      match i with
      | .setMaskStrength imm8 => imm8.getLsbD k
      | .setGapStrength imm8 => imm8.getLsbD k
      | .setWidth imm16 => imm16.getLsbD k
      | .setHeight imm16 => imm16.getLsbD k
      | .readLut row col => if k < 3 then col.getLsbD k else if k < 8 then false else row.getLsbD (k - 8)
      | .nop => false
      | .genLut => false
      | .render => false
      | .clearStatus => false
      | .softReset => false := by
  have big : ∀ {n : Nat} (v : BitVec n) (j : Nat), n ≤ j → v.getLsbD j = false :=
    fun v j h => BitVec.getLsbD_of_ge v j h
  cases i <;> simp only [Instr.operandBits, BitVec.getLsbD_append, BitVec.getLsbD_zero] <;> try rfl
  case readLut row col =>
    split_ifs <;> first | rfl | omega | rw [big _ _ (by omega)]
  all_goals
    split_ifs with h
    · rfl
    · exact (big _ _ (by omega)).symm

/-- No encoded command has a reserved bit set (R76). -/
theorem encode_reserved (i : Instr) : encode i &&& i.op.format.reservedZeroMask = 0#32 := by
  apply BitVec.eq_of_getLsbD_eq
  intro k hk
  rw [BitVec.getLsbD_and, encode_getLsbD, operandBits_getLsbD]
  cases i <;> simp only [Instr.op, Op.format, Format.reservedZeroMask] <;> interval_cases k <;> simp

/-! ### An encoded command as a number -/

theorem append_toNat {m n : Nat} (a : BitVec m) (b : BitVec n) : (a ++ b).toNat = a.toNat * 2 ^ n + b.toNat := by
  rw [BitVec.toNat_append, ← Nat.shiftLeft_add_eq_or_of_lt b.isLt, Nat.shiftLeft_eq]

/-- The operand part of a command word as a number (R72, R73). -/
def Instr.operandNat : Instr → Nat
  | .setMaskStrength imm8 => imm8.toNat
  | .setGapStrength imm8 => imm8.toNat
  | .setWidth imm16 => imm16.toNat
  | .setHeight imm16 => imm16.toNat
  | .readLut row col => 256 * row.toNat + col.toNat
  | .nop => 0
  | .genLut => 0
  | .render => 0
  | .clearStatus => 0
  | .softReset => 0

theorem operandBits_toNat (i : Instr) : i.operandBits.toNat = i.operandNat := by
  have hb : ∀ v : BitVec 8, (0#16 ++ v : BitVec (16 + 8)).toNat = v.toNat := fun v => (append_toNat _ _).trans (by simp)
  have hh : ∀ v : BitVec 16, (0#8 ++ v : BitVec (8 + 16)).toNat = v.toNat := fun v => (append_toNat _ _).trans (by simp)
  have hl : ∀ r c : BitVec 3, (0#13 ++ r ++ 0#5 ++ c : BitVec (13 + 3 + 5 + 3)).toNat = 256 * r.toNat + c.toNat :=
    fun r c => by simp only [append_toNat, BitVec.toNat_ofNat]; omega
  cases i <;> first | rfl | exact hb _ | exact hh _ | exact hl _ _

theorem encode_toNat (i : Instr) : (encode i).toNat = i.op.opc.toNat * 2 ^ 24 + i.operandNat := by
  unfold encode
  rw [append_toNat, operandBits_toNat]

/-- An encoded command as the sum of its opcode word and its operand number (R72). -/
theorem encode_eq_add (i : Instr) (w : Word) (h : w.toNat = i.op.opc.toNat * 2 ^ 24) :
    encode i = w + BitVec.ofNat 32 i.operandNat := by
  apply BitVec.eq_of_toNat_eq
  have hlt := (encode i).isLt
  rw [encode_toNat] at *
  rw [BitVec.toNat_add, BitVec.toNat_ofNat, h]
  omega

end Sys2Proof
end

