-- ==== Sys2Proof/Laws/Exec.lean ====
section
/-! SUPPORT. What each command does, said once: the busy check, and every way a command can answer a next state. -/

namespace Sys2Proof.Machine

theorem whenIdle_idle {s : State} (k : State → Result) (h : s.busy = false) : whenIdle s k = k s := by
  simp [whenIdle, h]

theorem whenIdle_busy {s : State} (k : State → Result) (h : s.busy = true) :
    whenIdle s k = .next (recordError .busyReject s) := by
  simp [whenIdle, h]

/-- While BUSY every command but SOFT_RESET is rejected (R163). -/
theorem exec_busy {s : State} {i : Instr} (h : s.busy = true) (hi : i ≠ .softReset) :
    exec i s = .next (recordError .busyReject s) := by
  cases i <;> first
    | exact absurd rfl hi
    | (simp only [exec, execNop, execSetMaskStrength, execSetGapStrength, execSetWidth, execSetHeight, execGenLut,
        execReadLut, execRender, execClearStatus, whenIdle_busy _ h])

theorem colOperand?_some {col : BitVec 3} (h : col.toNat < tileCols) :
    colOperand? col = some ⟨col.toNat, h⟩ := by
  simp only [colOperand?, dif_pos h]

theorem colOperand?_none {col : BitVec 3} (h : ¬ col.toNat < tileCols) : colOperand? col = none := by
  simp only [colOperand?, dif_neg h]

/-- The cell READ_LUT selects (R110). -/
theorem execReadLut_idle {s : State} (row col : BitVec 3) (h : s.busy = false) (hc : col.toNat < tileCols) :
    execReadLut row col s = .next { s with result := (s.tile.cell (rowOperand row) ⟨col.toNat, hc⟩).pack } := by
  simp only [execReadLut, whenIdle_idle _ h, colOperand?_some hc]

/-- COL 6 or 7 (R77). -/
theorem execReadLut_range {s : State} (row col : BitVec 3) (h : s.busy = false) (hc : ¬ col.toNat < tileCols) :
    execReadLut row col s = .next (recordError .range s) := by
  simp only [execReadLut, whenIdle_idle _ h, colOperand?_none hc]

/-- RENDER of an empty image (R130). -/
theorem execRender_empty {s : State} (h : s.busy = false) (he : s.width = 0 ∨ s.height = 0) :
    execRender s = .next { s.prepareRender params with sy := s.height, done := true } := by
  rw [execRender, whenIdle_idle _ h, startRender, if_pos he]

/-- RENDER of a nonempty image into an allocated destination (R130, R184). -/
theorem execRender_start {s : State} (h : s.busy = false) (he : ¬(s.width = 0 ∨ s.height = 0))
    (ha : s.dstAllocated = true) : execRender s = .next (s.prepareRender params).beginBusy := by
  rw [execRender, whenIdle_idle _ h, startRender, if_neg he, if_pos ha]

/-- RENDER without the launch premise (R184, U3). -/
theorem execRender_refused {s : State} (h : s.busy = false) (he : ¬(s.width = 0 ∨ s.height = 0))
    (ha : s.dstAllocated = false) : execRender s = .refused .destinationNotAllocated := by
  rw [execRender, whenIdle_idle _ h, startRender, if_neg he, if_neg (by simp [ha])]

/-- What an accepted command can do to an idle block, one case a command. -/
inductive Ran (s : State) : Instr → State → Prop where
  | nop : Ran s .nop s
  | setMaskStrength (m : BitVec 8) : Ran s (.setMaskStrength m) { s with maskStrength := m }
  | setGapStrength (g : BitVec 8) : Ran s (.setGapStrength g) { s with gapStrength := g }
  | setWidth (w : BitVec 16) : Ran s (.setWidth w) { s with width := w }
  | setHeight (h : BitVec 16) : Ran s (.setHeight h) { s with height := h }
  | genLut : Ran s .genLut (loadTile params s)
  | readLut (row col : BitVec 3) (h : col.toNat < tileCols) :
      Ran s (.readLut row col) { s with result := (s.tile.cell (rowOperand row) ⟨col.toNat, h⟩).pack }
  | readLutRange (row col : BitVec 3) (h : ¬ col.toNat < tileCols) :
      Ran s (.readLut row col) (recordError .range s)
  | renderEmpty (h : s.width = 0 ∨ s.height = 0) :
      Ran s .render { s.prepareRender params with sy := s.height, done := true }
  | renderStart (h : ¬(s.width = 0 ∨ s.height = 0)) (ha : s.dstAllocated = true) :
      Ran s .render (s.prepareRender params).beginBusy
  | clearStatus : Ran s .clearStatus s.clearFlags
  | softReset : Ran s .softReset (resetBlock params s)

/-- Everything a command can do while the block is idle. -/
theorem exec_idle_cases {s t : State} {i : Instr} (h : s.busy = false) (he : exec i s = .next t) : Ran s i t := by
  cases i with
  | nop =>
    have : t = s := by simpa [exec, execNop, whenIdle_idle _ h] using he.symm
    subst this
    exact .nop
  | setMaskStrength m =>
    have := by simpa [exec, execSetMaskStrength, whenIdle_idle _ h] using he.symm
    subst this
    exact .setMaskStrength m
  | setGapStrength g =>
    have := by simpa [exec, execSetGapStrength, whenIdle_idle _ h] using he.symm
    subst this
    exact .setGapStrength g
  | setWidth w =>
    have := by simpa [exec, execSetWidth, whenIdle_idle _ h] using he.symm
    subst this
    exact .setWidth w
  | setHeight w =>
    have := by simpa [exec, execSetHeight, whenIdle_idle _ h] using he.symm
    subst this
    exact .setHeight w
  | genLut =>
    have := by simpa [exec, execGenLut, whenIdle_idle _ h] using he.symm
    subst this
    exact .genLut
  | readLut row col =>
    rw [exec] at he
    by_cases hc : col.toNat < tileCols
    · rw [execReadLut_idle row col h hc] at he
      cases he
      exact .readLut row col hc
    · rw [execReadLut_range row col h hc] at he
      cases he
      exact .readLutRange row col hc
  | render =>
    rw [exec] at he
    by_cases hz : s.width = 0 ∨ s.height = 0
    · rw [execRender_empty h hz] at he
      cases he
      exact .renderEmpty hz
    · cases ha : s.dstAllocated
      · rw [execRender_refused h hz ha] at he
        cases he
      · rw [execRender_start h hz ha] at he
        cases he
        exact .renderStart hz ha
  | clearStatus =>
    have := by simpa [exec, execClearStatus, whenIdle_idle _ h] using he.symm
    subst this
    exact .clearStatus
  | softReset =>
    have := by simpa [exec, execSoftReset] using he.symm
    subst this
    exact .softReset

end Sys2Proof.Machine
end

