-- ==== Sys2Proof/Laws/Pixels.lean ====
section
/-! SUPPORT. Pixels, their packing, tile cells and the generator: the small laws of each definition. -/

namespace Sys2Proof

theorem satSub_eq (a b : Nat) : satSub a b = a - b := by
  unfold satSub
  split_ifs <;> omega

theorem clamp255_le (v : Nat) : clamp255 v ≤ chMax := Nat.min_le_right _ _

/-- A channel keeps a number that is at most 255. -/
theorem ch_ofChannels (f : Channel → Nat) (k : Channel) (h : f k ≤ chMax) :
    ((Pixel.ofChannels f).ch k).toNat = f k := by
  have h' : f k < 256 := by simp only [chMax] at h; omega
  fin_cases k <;> simp_all [Pixel.ofChannels, Pixel.ch]

theorem Pixel.ext_ch {p q : Pixel} (h : ∀ k, p.ch k = q.ch k) : p = q := by
  obtain ⟨r, g, b⟩ := p
  obtain ⟨r', g', b'⟩ := q
  simpa [Pixel.ch] using And.intro (h 0) (And.intro (h 1) (h 2))

@[simp] theorem black_ch (k : Channel) : black.ch k = 0 := by
  fin_cases k <;> rfl

/-- `pack` as a number (R11). -/
theorem pack_toNat (p : Pixel) : p.pack.toNat = p.r.toNat + 256 * p.g.toNat + 65536 * p.b.toNat := by
  have := p.r.isLt
  have := p.g.isLt
  have := p.b.isLt
  simp only [Pixel.pack, Pixel.ch, BitVec.toNat_append]
  rw [← Nat.shiftLeft_add_eq_or_of_lt (by omega), ← Nat.shiftLeft_add_eq_or_of_lt (by omega),
    ← Nat.shiftLeft_add_eq_or_of_lt (by omega)]
  simp [Nat.shiftLeft_eq]
  omega

@[simp] theorem cell_ofCells (f : TileRow → TileCol → Pixel) (r : TileRow) (c : TileCol) :
    Tile.cell (Tile.ofCells f) r c = f r c := by
  simp [Tile.cell, Tile.ofCells]

theorem Tile.ext_cell {t t' : Tile} (h : ∀ r c, Tile.cell t r c = Tile.cell t' r c) : t = t' := by
  apply Vector.ext
  intro i hi
  apply Vector.ext
  intro j hj
  exact h ⟨i, hi⟩ ⟨j, hj⟩

end Sys2Proof

namespace Sys2Proof.Machine

theorem gapHigh_le (g : Nat) : gapHigh g ≤ chMax := by
  rw [gapHigh, satSub_eq]
  omega

theorem gapLow_le {m : Nat} (g : Nat) (h : m ≤ chMax) : gapLow m g ≤ chMax := by
  rw [gapLow, satSub_eq]
  omega

/-- One cell of the generated tile (R106). -/
theorem genTile_cell (c : Config) (mask gap : Byte) (r : TileRow) (col : TileCol) :
    (genTile c mask gap).cell r col =
      match cellKind r col with
      | .accent => accentCell mask.toNat col
      | .gapBlend => gapCell c mask.toNat gap.toNat col :=
  cell_ofCells _ r col

theorem accentCell_ch (mask : Byte) (col : TileCol) (k : Channel) :
    ((accentCell mask.toNat col).ch k).toNat = if k = accentChannel col then chMax else mask.toNat := by
  have := mask.isLt
  refine ch_ofChannels _ k ?_
  split_ifs <;> simp only [chMax] <;> omega

theorem gapCell_ch (c : Config) (mask gap : Byte) (col : TileCol) (k : Channel) :
    ((gapCell c mask.toNat gap.toNat col).ch k).toNat =
      if k = gapChannel c col then gapHigh gap.toNat else gapLow mask.toNat gap.toNat := by
  have := mask.isLt
  refine ch_ofChannels _ k ?_
  split_ifs
  · exact gapHigh_le _
  · exact gapLow_le _ (by simp only [chMax]; omega)

end Sys2Proof.Machine
end

