-- ==== Sys2Proof/Laws/Expander.lean ====
section
/-! SUPPORT. The datapath's bounds, the cursor's closed form, and everything the engine's step can do. -/

namespace Sys2Proof.Machine

/-! ### Datapath -/

theorem blur_le (i : Sub) {cur prv : Nat} (hc : cur ≤ chMax) (hp : prv ≤ chMax) : blur i cur prv ≤ chMax := by
  simp only [chMax] at *
  fin_cases i <;> simp [blur] <;> omega

theorem gap_le (c : Config) (j : Sub) (v : Nat) : gap c j v ≤ v := by
  fin_cases j <;> simp [gap, satSub_eq]

theorem boost_le (c : Config) (v m : Nat) : boost c v m ≤ chMax := clamp255_le _

/-- No channel of a sub-pixel loses a bit when it is narrowed to a byte. -/
theorem subPixel_ch (c : Config) (i j : Sub) (cur prv cell : Pixel) (k : Channel) :
    ((subPixel c i j cur prv cell).ch k).toNat = subChannel c i j (cur.ch k) (prv.ch k) (cell.ch k) :=
  ch_ofChannels _ k (boost_le _ _ _)

/-! ### Cursor -/

theorem nextCol_val (col : TileCol) : (nextCol col).val = (col.val + 1) % 6 := rfl

theorem nextRow_val (row : TileRow) : (nextRow row).val = (row.val + 1) % 8 := rfl

theorem cursorRowAt_val (w x y j : Nat) : (cursorRowAt params w x y j).val = (4 * (y * w + x) + j) % 8 := rfl

theorem cursorColAt_val (w x y j i : Nat) : (cursorColAt w x y j i).val = (16 * (y * w + x) + 4 * j + i) % 6 := rfl

/-! ### The destination coordinate (R126) -/

theorem dstCoord_x (s : State) : s.dstCoord.x = 4 * s.sx.toNat + s.si.val := rfl

theorem dstCoord_y (s : State) : s.dstCoord.y = 4 * s.sy.toNat + s.sj.val := rfl

theorem sub_le (i : Sub) : i.val ≤ 3 := Nat.le_of_lt_succ i.isLt

/-- The destination coordinate taken apart again: source column, sub-column, source row, sub-row. -/
theorem dstCoord_parts (s : State) :
    s.dstCoord.x / 4 = s.sx.toNat ∧ s.dstCoord.x % 4 = s.si.val ∧
      s.dstCoord.y / 4 = s.sy.toNat ∧ s.dstCoord.y % 4 = s.sj.val := by
  have hi := sub_le s.si
  have hj := sub_le s.sj
  rw [dstCoord_x, dstCoord_y]
  omega

/-! ### The engine's step -/

/-- The source pixel that the step's sub-pixel is computed from (R129). -/
def State.curPixNow (s : State) : Pixel := if s.si = 0 ∧ s.sj = 0 then s.srcRead s.sx.toNat s.sy.toNat else s.curPix

/-- The previous pixel that the step's sub-pixel is computed from (R128). -/
def State.prevNow (s : State) : Pixel := if s.si = 0 ∧ s.sj = 0 ∧ s.sx = 0 then black else s.prev

/-- The Pixel the step writes (R124, R131). -/
def State.outPixel (s : State) : Pixel := subPixel params s.si s.sj s.curPixNow s.prevNow s.cell

/-- The state just before the sequencer moves on. -/
def State.emitted (s : State) : State :=
  { s with prev := s.prevNow, curPix := s.curPixNow, dst := s.dst.insert s.dstCoord s.outPixel }

theorem emit_latchSource (s : State) : (s.latchSource params).emit params = s.emitted := by
  unfold State.latchSource State.emit State.emitted State.outPixel State.curPixNow State.prevNow
  by_cases h : s.si = 0 ∧ s.sj = 0
  · obtain ⟨h1, h2⟩ := h
    simp [h1, h2, State.dstWrite, State.dstCoord, State.cell, params]
  · have h' : ¬(s.si = 0 ∧ s.sj = 0 ∧ s.sx = 0) := fun hh => h ⟨hh.1, hh.2.1⟩
    simp only [h, h', if_false]
    rfl

/-- Everything the engine's step can do (R131), one case for each way the sequencer moves on. -/
theorem engineStep_cases (s : State) :
    (s.si.val < 3 ∧ engineStep params s =
      { s.emitted with curCol := nextCol s.curCol, si := Fin.ofNat scale (s.si.val + 1) }) ∨
    (s.si.val = 3 ∧ s.sj.val < 3 ∧ engineStep params s =
      { s.emitted with
        curCol := nextCol s.curCol, si := 0, curRow := nextRow s.curRow, sj := Fin.ofNat scale (s.sj.val + 1) }) ∨
    (s.si.val = 3 ∧ s.sj.val = 3 ∧ s.sx.toNat + 1 < s.width.toNat ∧ engineStep params s =
      { s.emitted with
        curCol := nextCol s.curCol, si := 0, curRow := nextRow s.curRow, sj := 0, prev := s.curPix, sx := s.sx + 1 }) ∨
    (s.si.val = 3 ∧ s.sj.val = 3 ∧ s.width.toNat ≤ s.sx.toNat + 1 ∧ s.sy.toNat + 1 ≠ s.height.toNat ∧
      engineStep params s =
      { s.emitted with
        curCol := nextCol s.curCol, si := 0, curRow := nextRow s.curRow, sj := 0, prev := s.curPix
        sx := 0, sy := s.sy + 1 }) ∨
    (s.si.val = 3 ∧ s.sj.val = 3 ∧ s.width.toNat ≤ s.sx.toNat + 1 ∧ s.sy.toNat + 1 = s.height.toNat ∧
      engineStep params s =
      { s.emitted with
        curCol := nextCol s.curCol, si := 0, curRow := nextRow s.curRow, sj := 0, prev := s.curPix
        sx := 0, sy := s.sy + 1, busy := false, done := true, dstBefore := [] }) := by
  have hi : s.si.val ≤ 3 := Nat.le_of_lt_succ s.si.isLt
  have hj : s.sj.val ≤ 3 := Nat.le_of_lt_succ s.sj.isLt
  have hcur : s.si.val = 3 → s.curPixNow = s.curPix := by
    intro h3
    have : s.si ≠ 0 := by
      intro h0
      simp [h0] at h3
    simp [State.curPixNow, this]
  rw [engineStep, emit_latchSource]
  unfold State.advance State.nextPixel
  have e1 : s.emitted.si = s.si := rfl
  have e2 : s.emitted.sj = s.sj := rfl
  simp only [e1, e2]
  by_cases h1 : s.si.val < 3
  · left
    exact ⟨h1, by simp only [h1, if_true]; rfl⟩
  · have h1' : s.si.val = 3 := by omega
    have hc := hcur h1'
    right
    by_cases h2 : s.sj.val < 3
    · left
      exact ⟨h1', h2, by simp only [h1, h2, if_true, if_false]; rfl⟩
    · have h2' : s.sj.val = 3 := by omega
      right
      simp only [h1, h2, if_false]
      by_cases h3 : s.sx.toNat + 1 < s.width.toNat
      · left
        refine ⟨h1', h2', h3, ?_⟩
        rw [if_pos (by exact h3)]
        simp [State.emitted, hc]
      · right
        by_cases h4 : s.sy.toNat + 1 = s.height.toNat
        · right
          refine ⟨h1', h2', by omega, h4, ?_⟩
          rw [if_neg (by exact h3), if_pos (by exact h4)]
          simp [State.emitted, State.finishRender, hc]
        · left
          refine ⟨h1', h2', by omega, h4, ?_⟩
          rw [if_neg (by exact h3), if_neg (by exact h4)]
          simp [State.emitted, hc]

/-- The engine's step writes exactly one destination pixel (R56, R58). -/
theorem engineStep_dst (s : State) : (engineStep params s).dst = s.dst.insert s.dstCoord s.outPixel := by
  rcases engineStep_cases s with h | h | h | h | h <;>
    · obtain ⟨_, h⟩ := h
      simp_all [State.emitted]

/-- What the engine's step never changes. -/
structure SameSetting (s t : State) : Prop where
  maskStrength : t.maskStrength = s.maskStrength
  gapStrength : t.gapStrength = s.gapStrength
  width : t.width = s.width
  height : t.height = s.height
  tile : t.tile = s.tile
  err : t.err = s.err
  errCode : t.errCode = s.errCode
  result : t.result = s.result
  src : t.src = s.src
  allocWidth : t.allocWidth = s.allocWidth
  allocHeight : t.allocHeight = s.allocHeight
  agenda : t.agenda = s.agenda
  delivered : t.delivered = s.delivered
  draws : t.draws = s.draws

theorem engineStep_sameSetting (s : State) : SameSetting s (engineStep params s) := by
  rcases engineStep_cases s with ⟨_, h⟩ | ⟨_, _, h⟩ | ⟨_, _, _, h⟩ | ⟨_, _, _, _, h⟩ | ⟨_, _, _, _, h⟩ <;>
    · rw [h]
      constructor <;> rfl

end Sys2Proof.Machine
end

