-- ==== Sys2Proof/Laws/PerInstr.lean ====
section
/-! SUPPORT. Statements about every command as syntax, one lemma per constructor. Family `EncodedFields`. -/

namespace Sys2Proof.Laws.EncodedFields

/-- The encoded command has its row's opcode, no reserved bit, its operands as a number below the opcode, and the
decoder's operand fields read back the command (R71 to R74, R76). -/
def Statement (i : Instr) : Prop :=
  opcField (encode i) = i.op.opc ∧ encode i &&& i.op.format.reservedZeroMask = 0#32 ∧
  (encode i).toNat = i.op.opc.toNat * 2 ^ 24 + i.operandNat ∧ i.op.instr (encode i) = i

/-- Only the last clause depends on the command's format. -/
theorem of_operands (i : Instr) (h : i.op.instr (encode i) = i) : Statement i :=
  ⟨opcField_encode i, encode_reserved i, encode_toNat i, h⟩

theorem imm8Field_encode (i : Instr) : (imm8Field (encode i)).toNat = i.operandNat % 2 ^ 8 := by
  simp only [imm8Field, BitVec.extractLsb'_toNat, encode_toNat, Nat.shiftRight_zero]
  omega

theorem imm16Field_encode (i : Instr) : (imm16Field (encode i)).toNat = i.operandNat % 2 ^ 16 := by
  simp only [imm16Field, BitVec.extractLsb'_toNat, encode_toNat, Nat.shiftRight_zero]
  omega

theorem rowField_encode (i : Instr) : (rowField (encode i)).toNat = i.operandNat / 2 ^ 8 % 2 ^ 3 := by
  simp only [rowField, BitVec.extractLsb'_toNat, encode_toNat, Nat.shiftRight_eq_div_pow]
  omega

theorem colField_encode (i : Instr) : (colField (encode i)).toNat = i.operandNat % 2 ^ 3 := by
  simp only [colField, BitVec.extractLsb'_toNat, encode_toNat, Nat.shiftRight_zero]
  omega

theorem nop : Statement .nop := of_operands _ rfl

theorem setMaskStrength (imm8 : BitVec 8) : Statement (.setMaskStrength imm8) :=
  of_operands _ (congrArg Instr.setMaskStrength (BitVec.eq_of_toNat_eq
    ((imm8Field_encode _).trans (Nat.mod_eq_of_lt imm8.isLt))))

theorem setGapStrength (imm8 : BitVec 8) : Statement (.setGapStrength imm8) :=
  of_operands _ (congrArg Instr.setGapStrength (BitVec.eq_of_toNat_eq
    ((imm8Field_encode _).trans (Nat.mod_eq_of_lt imm8.isLt))))

theorem setWidth (imm16 : BitVec 16) : Statement (.setWidth imm16) :=
  of_operands _ (congrArg Instr.setWidth (BitVec.eq_of_toNat_eq
    ((imm16Field_encode _).trans (Nat.mod_eq_of_lt imm16.isLt))))

theorem setHeight (imm16 : BitVec 16) : Statement (.setHeight imm16) :=
  of_operands _ (congrArg Instr.setHeight (BitVec.eq_of_toNat_eq
    ((imm16Field_encode _).trans (Nat.mod_eq_of_lt imm16.isLt))))

theorem genLut : Statement .genLut := of_operands _ rfl

theorem readLut (row col : BitVec 3) : Statement (.readLut row col) := by
  apply of_operands
  have hrow := row.isLt
  have hcol := col.isLt
  apply congrArg₂ Instr.readLut <;> apply BitVec.eq_of_toNat_eq
  · rw [rowField_encode, Instr.operandNat]
    omega
  · rw [colField_encode, Instr.operandNat]
    omega

theorem render : Statement .render := of_operands _ rfl

theorem clearStatus : Statement .clearStatus := of_operands _ rfl

theorem softReset : Statement .softReset := of_operands _ rfl

end Sys2Proof.Laws.EncodedFields
end

