-- ==== Sys2Proof/Laws/Rendering.lean ====
section
/-! SUPPORT. A running render: the order of the engine's writes, and everything one engine step does to a state
that is where its render says it is. -/

namespace Sys2Proof.Machine

/-! ### What the step computes -/

theorem rendered_eq {s t : State} (h1 : t.maskStrength = s.maskStrength) (h2 : t.gapStrength = s.gapStrength)
    (h3 : t.width = s.width) (h4 : t.src = s.src) (a : Coord) : t.rendered params a = s.rendered params a := by
  simp [State.rendered, State.srcRead, State.leftOf, h1, h2, h3, h4]

theorem curPixNow_eq {s : State} (R : Rendering s) : s.curPixNow = s.srcRead s.sx.toNat s.sy.toNat := by
  unfold State.curPixNow
  split_ifs with h
  · rfl
  · exact R.latched h

theorem prevNow_eq {s : State} (R : Rendering s) : s.prevNow = s.leftOf s.sx.toNat s.sy.toNat := by
  unfold State.prevNow
  split_ifs with h
  · simp [State.leftOf, h.2.2]
  · exact R.leftKnown h

/-- After the first sub-pixel CURPIX is the current source pixel (R129). -/
theorem curPix_eq {s : State} (R : Rendering s) (h : s.si.val = 3) :
    s.curPix = s.srcRead s.sx.toNat s.sy.toNat := by
  apply R.latched
  rintro ⟨h0, _⟩
  rw [h0] at h
  simp at h

theorem curRow_val {s : State} (R : Rendering s) :
    s.curRow.val = (4 * (s.sy.toNat * s.width.toNat + s.sx.toNat) + s.sj.val) % 8 := by
  rw [R.rowContinues]
  rfl

theorem curCol_val {s : State} (R : Rendering s) :
    s.curCol.val = (16 * (s.sy.toNat * s.width.toNat + s.sx.toNat) + 4 * s.sj.val + s.si.val) % 6 := by
  rw [R.colContinues]
  rfl

/-- The step's pixel is the closed form at its coordinate (R133). -/
theorem outPixel_eq {s : State} (R : Rendering s) : s.outPixel = s.rendered params s.dstCoord := by
  obtain ⟨e1, e2, e3, e4⟩ := dstCoord_parts s
  have e5 : Fin.ofNat scale s.si.val = s.si := by ext; simp [scale]
  have e6 : Fin.ofNat scale s.sj.val = s.sj := by ext; simp [scale]
  unfold State.outPixel State.rendered
  simp only [scale] at e5 e6 ⊢
  rw [curPixNow_eq R, prevNow_eq R, e1, e2, e3, e4, e5, e6, State.cell, R.tileCurrent, R.rowContinues,
    R.colContinues]

/-! ### The order of the writes (R60) -/

theorem writeIndex_dstCoord {s : State} : writeIndex s.width.toNat s.dstCoord = s.stepsTaken := by
  unfold writeIndex State.stepsTaken
  obtain ⟨e1, e2, e3, e4⟩ := dstCoord_parts s
  simp only [scale]
  rw [e1, e2, e3, e4]

theorem raster_inj {w y x y' x' : Nat} (hx : x < w) (hx' : x' < w) (h : y * w + x = y' * w + x') :
    y = y' ∧ x = x' := by
  have hw : 0 < w := by omega
  have row : ∀ {q r : Nat}, r < w → (q * w + r) / w = q := fun hr => by
    rw [mul_comm, Nat.mul_add_div hw, Nat.div_eq_of_lt hr, add_zero]
  have hy : y = y' := by rw [← row (q := y) hx, h, row hx']
  subst hy
  exact ⟨rfl, by omega⟩

/-- No two coordinates of a region of `w` source columns have the same place in the order. -/
theorem writeIndex_inj {w : Nat} {a b : Coord} (ha : a.x < 4 * w) (hb : b.x < 4 * w)
    (h : writeIndex w a = writeIndex w b) : a = b := by
  unfold writeIndex at h
  simp only [scale] at h
  have := raster_inj (w := w) (y := a.y / 4) (x := a.x / 4) (y' := b.y / 4) (x' := b.x / 4)
    (by omega) (by omega) (by omega)
  obtain ⟨ax, ay⟩ := a
  obtain ⟨bx, by_⟩ := b
  simp only at *
  simp only [Coord.mk.injEq]
  omega

theorem dstCoord_inRegion {s : State} (hx : s.sx.toNat < s.width.toNat) (hy : s.sy.toNat < s.height.toNat) :
    s.inRegion s.dstCoord = true := by
  have hi := sub_le s.si
  have hj := sub_le s.sj
  unfold State.inRegion
  rw [Coord.inside_iff]
  simp only [State.dstCoord, scale]
  omega

/-- The destination after one more step: one more coordinate holds its rendered value. -/
theorem step_lookup {s : State} (R : Rendering s) (a : Coord) :
    (engineStep params s).dst.lookup a =
      if s.inRegion a = true ∧ writeIndex s.width.toNat a < s.stepsTaken + 1 then some (s.rendered params a)
      else s.dstBefore.lookup a := by
  rw [engineStep_dst, lookup_insert, R.dstProgress a, outPixel_eq R]
  have hreg := dstCoord_inRegion R.sxInside R.syInside
  by_cases ha : a = s.dstCoord
  · subst ha
    rw [if_pos rfl, if_pos ⟨hreg, by rw [writeIndex_dstCoord]; omega⟩]
  · rw [if_neg ha]
    by_cases hr : s.inRegion a = true
    · have hne : writeIndex s.width.toNat a ≠ s.stepsTaken := by
        rw [← writeIndex_dstCoord]
        intro hh
        unfold State.inRegion at hr hreg
        rw [Coord.inside_iff] at hr hreg
        exact ha (writeIndex_inj hr.1 hreg.1 hh)
      have : (writeIndex s.width.toNat a < s.stepsTaken + 1) ↔ writeIndex s.width.toNat a < s.stepsTaken := by
        omega
      simp [State.written, hr, this]
    · simp [State.written, hr]

/-! ### One engine step -/

/-- Adding 1 to a dimension below another one does not wrap. -/
theorem add1_toNat {x w : Dim} (h : x.toNat < w.toNat) : (x + 1).toNat = x.toNat + 1 := by
  have := w.isLt
  simp only [dimBits] at *
  rw [BitVec.toNat_add]
  simp
  omega

/-- What the last step of a render leaves (R132). -/
structure RenderEnd (s t : State) : Prop where
  lastStep : s.stepsTaken + 1 = 16 * s.width.toNat * s.height.toNat
  busy : t.busy = false
  done : t.done = true
  sx : t.sx = 0
  sy : t.sy = s.height
  sj : t.sj = 0
  si : t.si = 0
  dstBefore : t.dstBefore = []
  atLastColumn : s.sx.toNat = s.width.toNat - 1
  atLastRow : s.sy.toNat = s.height.toNat - 1
  prev : t.prev = s.srcRead s.sx.toNat s.sy.toNat
  curPix : t.curPix = s.srcRead s.sx.toNat s.sy.toNat
  curRow : t.curRow.val = (4 * s.width.toNat * s.height.toNat) % 8
  curCol : t.curCol.val = (4 * s.width.toNat * s.height.toNat) % 6

/-- What an engine step keeps wherever the sequencer goes. -/
theorem engineStep_keeps {s : State} (R : Rendering s)
    (hst : (engineStep params s).stepsTaken = s.stepsTaken + 1)
    (hbf : (engineStep params s).dstBefore = s.dstBefore) :
    (engineStep params s).dstAllocated = true ∧
    (engineStep params s).tile = genTile params (engineStep params s).maskStrength (engineStep params s).gapStrength ∧
    ∀ a : Coord, (engineStep params s).dst.lookup a =
      if (engineStep params s).written a then some ((engineStep params s).rendered params a)
      else (engineStep params s).dstBefore.lookup a := by
  have same := engineStep_sameSetting s
  refine ⟨?_, ?_, fun a => ?_⟩
  · simpa [State.dstAllocated, same.width, same.height, same.allocWidth, same.allocHeight] using R.allocated
  · rw [same.tile, same.maskStrength, same.gapStrength, R.tileCurrent]
  · rw [step_lookup R a, rendered_eq same.maskStrength same.gapStrength same.width same.src a, hbf]
    simp only [State.written, State.inRegion, hst, same.width, same.height, Bool.and_eq_true, decide_eq_true_eq]
    congr

/-- Everything one engine step does to a running render: it takes one more step, or it was the last. -/
theorem engineStep_rendering {s : State} (hb : s.busy = true) (R : Rendering s) :
    ((engineStep params s).busy = true ∧ Rendering (engineStep params s) ∧
      (engineStep params s).stepsTaken = s.stepsTaken + 1 ∧ (engineStep params s).dstBefore = s.dstBefore) ∨
    RenderEnd s (engineStep params s) := by
  have hi := sub_le s.si
  have hj := sub_le s.sj
  have hsx := R.sxInside
  have hsy := R.syInside
  have hrow := curRow_val R
  have hcol := curCol_val R
  have c1 := curPixNow_eq R
  have c2 := prevNow_eq R
  have same := engineStep_sameSetting s
  rcases engineStep_cases s with ⟨h1, h⟩ | ⟨h1, h2, h⟩ | ⟨h1, h2, h3, h⟩ | ⟨h1, h2, h3, h4, h⟩ | ⟨h1, h2, h3, h4, h⟩
  · left
    have hsi : (engineStep params s).si.val = s.si.val + 1 := by rw [h]; simp [scale]; omega
    have hst : (engineStep params s).stepsTaken = s.stepsTaken + 1 := by
      unfold State.stepsTaken; rw [hsi]; rw [h]; simp [State.emitted]; omega
    have hbf : (engineStep params s).dstBefore = s.dstBefore := by rw [h]; rfl
    obtain ⟨alloc, tile, prog⟩ := engineStep_keeps R hst hbf
    refine ⟨by rw [h]; exact hb, ?_, hst, hbf⟩
    refine ⟨?_, ?_, alloc, tile, ?_, ?_, ?_, ?_, prog, ?_⟩
    · rw [h]; exact hsx
    · rw [h]; exact hsy
    · rw [h]; exact R.rowContinues
    · apply Fin.ext; rw [cursorColAt_val, hsi]; rw [h]; simp only [State.emitted, nextCol_val]; omega
    · intro _; rw [h]; exact c1
    · intro _; rw [h]; exact c2
    · rw [h]; exact R.notDone
  · left
    have hsj : (engineStep params s).sj.val = s.sj.val + 1 := by rw [h]; simp [scale]; omega
    have hst : (engineStep params s).stepsTaken = s.stepsTaken + 1 := by
      unfold State.stepsTaken; rw [hsj]; rw [h]; simp [State.emitted]; omega
    have hbf : (engineStep params s).dstBefore = s.dstBefore := by rw [h]; rfl
    obtain ⟨alloc, tile, prog⟩ := engineStep_keeps R hst hbf
    refine ⟨by rw [h]; exact hb, ?_, hst, hbf⟩
    refine ⟨?_, ?_, alloc, tile, ?_, ?_, ?_, ?_, prog, ?_⟩
    · rw [h]; exact hsx
    · rw [h]; exact hsy
    · apply Fin.ext; rw [cursorRowAt_val, hsj]; rw [h]; simp only [State.emitted, nextRow_val]; omega
    · apply Fin.ext; rw [cursorColAt_val, hsj]; rw [h]; simp only [State.emitted, nextCol_val]; simp; omega
    · intro _; rw [h]; exact c1
    · intro _; rw [h]; exact c2
    · rw [h]; exact R.notDone
  · left
    have hcp := curPix_eq R h1
    have hsx' : (engineStep params s).sx.toNat = s.sx.toNat + 1 := by rw [h]; exact add1_toNat hsx
    have hst : (engineStep params s).stepsTaken = s.stepsTaken + 1 := by
      unfold State.stepsTaken; rw [hsx']; rw [h]; simp [State.emitted]; omega
    have hbf : (engineStep params s).dstBefore = s.dstBefore := by rw [h]; rfl
    obtain ⟨alloc, tile, prog⟩ := engineStep_keeps R hst hbf
    refine ⟨by rw [h]; exact hb, ?_, hst, hbf⟩
    refine ⟨?_, ?_, alloc, tile, ?_, ?_, ?_, ?_, prog, ?_⟩
    · rw [hsx', same.width]; exact h3
    · rw [h]; exact hsy
    · apply Fin.ext; rw [cursorRowAt_val, hsx']; rw [h]; simp only [State.emitted, nextRow_val]; simp; omega
    · apply Fin.ext; rw [cursorColAt_val, hsx']; rw [h]; simp only [State.emitted, nextCol_val]; simp; omega
    · intro hn; exfalso; apply hn; rw [h]; exact ⟨rfl, rfl⟩
    · intro _
      have hsy' : (engineStep params s).sy = s.sy := by rw [h]; rfl
      have hsrc : ∀ x y, (engineStep params s).srcRead x y = s.srcRead x y := fun x y => by
        simp [State.srcRead, same.src]
      have hp : (engineStep params s).prev = s.curPix := by rw [h]
      rw [hp, hcp]
      unfold State.leftOf
      rw [hsx', hsy', hsrc]; simp
    · rw [h]; exact R.notDone
  · left
    have hsy' : (engineStep params s).sy.toNat = s.sy.toNat + 1 := by rw [h]; exact add1_toNat hsy
    have hw : s.width.toNat = s.sx.toNat + 1 := by omega
    have hst : (engineStep params s).stepsTaken = s.stepsTaken + 1 := by
      unfold State.stepsTaken; rw [hsy', same.width]; rw [h]; simp; rw [hw]; rw [h1, h2]; ring
    have hbf : (engineStep params s).dstBefore = s.dstBefore := by rw [h]; rfl
    obtain ⟨alloc, tile, prog⟩ := engineStep_keeps R hst hbf
    refine ⟨by rw [h]; exact hb, ?_, hst, hbf⟩
    have hlin : (s.sy.toNat + 1) * s.width.toNat = s.sy.toNat * s.width.toNat + s.sx.toNat + 1 := by rw [hw]; ring
    refine ⟨?_, ?_, alloc, tile, ?_, ?_, ?_, ?_, prog, ?_⟩
    · rw [h]; simp [State.emitted]; omega
    · rw [hsy', same.height]; omega
    · apply Fin.ext
      rw [cursorRowAt_val, hsy', same.width, hlin, h]
      simp only [nextRow_val]
      simp
      omega
    · apply Fin.ext
      rw [cursorColAt_val, hsy', same.width, hlin, h]
      simp only [nextCol_val]
      simp
      omega
    · intro hn; exfalso; apply hn; rw [h]; exact ⟨rfl, rfl⟩
    · intro hn; exfalso; apply hn; rw [h]; exact ⟨rfl, rfl, rfl⟩
    · rw [h]; exact R.notDone
  · right
    have hcp := curPix_eq R h1
    have hw : s.width.toNat = s.sx.toNat + 1 := by omega
    have hsy' : (engineStep params s).sy = s.height := by
      rw [h]; apply BitVec.eq_of_toNat_eq; rw [← h4]; exact add1_toNat hsy
    have hlin : 4 * s.width.toNat * s.height.toNat = 4 * (s.sy.toNat * s.width.toNat + s.sx.toNat + 1) := by
      rw [← h4, hw]; ring
    constructor
    case lastStep => unfold State.stepsTaken; rw [← h4, hw, h1, h2]; ring
    case sy => exact hsy'
    case atLastColumn => omega
    case atLastRow => omega
    case prev => rw [h]; exact hcp
    case curPix => rw [h]; exact c1
    case curRow => rw [h, hlin]; simp only [nextRow_val]; omega
    case curCol => rw [h, hlin]; simp only [nextCol_val]; omega
    all_goals rw [h]

end Sys2Proof.Machine
end

