-- ==== Sys2Proof/Laws/Runs.lean ====
section
/-! SUPPORT. Runs of several steps: how they join, and a running render left alone. -/

namespace Sys2Proof.Machine

/-! ### Runs -/

/-- A run of `m` steps followed by a run of `n`. -/
theorem run_add (m n : Nat) (s u : State) (h : Host.Core.run core m s = .next u) :
    Host.Core.run core (m + n) s = Host.Core.run core n u := by
  induction m generalizing s with
  | zero =>
    cases h
    simp
  | succ m ih =>
    rw [Nat.succ_add]
    simp only [Host.Core.run] at *
    cases hs : core.step s with
    | next s' =>
      rw [hs] at h
      exact ih s' h
    | fault r =>
      rw [hs] at h
      cases h
    | refused r =>
      rw [hs] at h
      cases h

theorem run_one (s u : State) (h : step s = .next u) : Host.Core.run core 1 s = .next u := by
  have h' : core.step s = .next u := h
  simp only [Host.Core.run, h']

/-- With no event left a busy engine steps (R131). -/
theorem step_drained {s : State} (ha : s.agenda = []) (hb : s.busy = true) :
    step s = .next (engineStep params s) := by
  simp [step, takeStep, ha, engineTurn, hb]

/-- The engine's turn, by its event or with no event left (R20, R131). -/
theorem step_engine {s : State} {rest : List Event} (h : s.agenda = .engineStep :: rest ∨ (s.agenda = [] ∧ rest = [])) :
    step s = .next (engineTurn { s with agenda := rest }) := by
  rcases h with h | ⟨h, rfl⟩
  · simp only [step, takeStep, h, runEvent]
  · simp only [step, takeStep, h]
    congr 2
    cases s
    simp_all

/-- With no event left an idle block holds all its state (R174). -/
theorem step_idle {s : State} (ha : s.agenda = []) (hb : s.busy = false) : step s = .next s := by
  simp [step, takeStep, ha, engineTurn, hb]

/-! ### A render left alone -/

theorem SameSetting.trans {s t u : State} (h : SameSetting s t) (h' : SameSetting t u) : SameSetting s u where
  maskStrength := h'.maskStrength.trans h.maskStrength
  gapStrength := h'.gapStrength.trans h.gapStrength
  width := h'.width.trans h.width
  height := h'.height.trans h.height
  tile := h'.tile.trans h.tile
  err := h'.err.trans h.err
  errCode := h'.errCode.trans h.errCode
  result := h'.result.trans h.result
  src := h'.src.trans h.src
  allocWidth := h'.allocWidth.trans h.allocWidth
  allocHeight := h'.allocHeight.trans h.allocHeight
  agenda := h'.agenda.trans h.agenda
  delivered := h'.delivered.trans h.delivered
  draws := h'.draws.trans h.draws

/-- A running render has a step left. -/
theorem stepsTaken_lt {s : State} (R : Rendering s) : s.stepsTaken < 16 * s.width.toNat * s.height.toNat := by
  have hi := sub_le s.si
  have hj := sub_le s.sj
  have hx := R.sxInside
  have rows : (s.sy.toNat + 1) * s.width.toNat ≤ s.height.toNat * s.width.toNat := Nat.mul_le_mul_right _ R.syInside
  have total : 16 * s.width.toNat * s.height.toNat = 16 * (s.height.toNat * s.width.toNat) := by ring
  have row : (s.sy.toNat + 1) * s.width.toNat = s.sy.toNat * s.width.toNat + s.width.toNat := by ring
  rw [total]
  unfold State.stepsTaken
  omega

/-- The number of steps taken says where the sequencer is. -/
theorem position_of_stepsTaken {s : State} (R : Rendering s) (n : Nat) (h : s.stepsTaken = n) :
    s.si.val = n % 4 ∧ s.sj.val = n / 4 % 4 ∧ s.sx.toNat = n / 16 % s.width.toNat ∧
    s.sy.toNat = n / 16 / s.width.toNat := by
  have hi := sub_le s.si
  have hj := sub_le s.sj
  have hx := R.sxInside
  unfold State.stepsTaken at h
  have h16 : n / 16 = s.sy.toNat * s.width.toNat + s.sx.toNat := by omega
  refine ⟨by omega, by omega, ?_, ?_⟩
  · rw [h16, mul_comm, Nat.mul_add_mod, Nat.mod_eq_of_lt hx]
  · rw [h16, mul_comm, Nat.mul_add_div (by omega), Nat.div_eq_of_lt hx, add_zero]

/-- Before its last step a render left alone is still running, so many steps further. -/
theorem run_engine {s : State} (R : Rendering s) (hb : s.busy = true) (ha : s.agenda = []) (n : Nat)
    (hn : s.stepsTaken + n < 16 * s.width.toNat * s.height.toNat) :
    ∃ u : State, Host.Core.run core n s = .next u ∧ u.busy = true ∧ Rendering u ∧
      u.stepsTaken = s.stepsTaken + n ∧ SameSetting s u ∧ u.dstBefore = s.dstBefore := by
  induction n with
  | zero => exact ⟨s, rfl, hb, R, rfl, by constructor <;> rfl, rfl⟩
  | succ n ih =>
    obtain ⟨u, hu, hub, uR, ust, same, ubf⟩ := ih (by omega)
    have hs := step_drained (same.agenda.trans ha) hub
    rcases engineStep_rendering hub uR with ⟨hb', R', st', bf'⟩ | last
    · exact ⟨_, (run_add n 1 s u hu).trans (run_one u _ hs), hb', R', by omega,
        same.trans (engineStep_sameSetting u), bf'.trans ubf⟩
    · have := last.lastStep
      rw [same.width, same.height] at this
      omega

end Sys2Proof.Machine
end

