-- ==== Sys2Proof/Laws/Window.lean ====
section
/-! SUPPORT. The host's side and the step: bytes and words, which accesses are admitted, and everything one step
can do. -/

namespace Sys2Proof

/-- A word put on the bus and taken off it is the same word (R51). -/
@[simp] theorem wordOfBytes?_wordBytes (w : Word) : wordOfBytes? (wordBytes w) = some w := by
  simp only [wordBytes, wordOfBytes?, Option.some.injEq]
  apply BitVec.eq_of_getLsbD_eq
  intro i hi
  simp only [BitVec.getLsbD_append, BitVec.getLsbD_extractLsb']
  split_ifs <;> rw [decide_eq_true (by omega), Bool.true_and] <;> congr 1 <;> omega

@[simp] theorem length_wordBytes (w : Word) : (wordBytes w).length = 4 := rfl

end Sys2Proof

namespace Sys2Proof.Machine

theorem admittedReg?_window {off : Nat} (h4 : off % 4 = 0) (hw : off < regWindow) :
    admittedReg? (.window off) 4 = some (Reg.ofOffset off) := by
  simp [admittedReg?, BusAddr.offset?, h4, hw]

/-- A CMD write runs R78's procedure on its word. -/
theorem takeStep_cmdEvent {s : State} {w : Word} {rest : List Event} (h : s.agenda = cmdEvent w :: rest) :
    takeStep s = cmdWrite w { s with agenda := rest } := by
  simp only [takeStep, h, cmdEvent, runEvent, busWrite, length_wordBytes, wordOfBytes?_wordBytes]
  rw [admittedReg?_window (by decide) (by decide)]
  rfl

/-- A command whose word the decoder accepts has its meaning, busy or not (R78, R163). -/
theorem cmdWrite_ok {s : State} {w : Word} {i : Instr} (h : decodeWord w = .ok i) : cmdWrite w s = exec i s := by
  unfold cmdWrite
  split_ifs with hb
  · refine (exec_busy hb.1 ?_).symm
    rintro rfl
    apply hb.2
    revert h
    unfold decodeWord
    cases ho : Op.ofOpc (opcField w) with
    | none => simp
    | some o =>
      simp only
      split_ifs <;> simp
      intro hi
      have hf := List.find?_some ho
      cases o <;> simp_all [Op.instr]
  · simp [h]

/-- Everything one step can do. `ag` is what is left of the agenda. -/
inductive Moved (s : State) : State → Prop where
  /-- Nothing but the agenda changes: an ignored write, or the turn of an idle engine. -/
  | quiet (ag : List Event) : Moved s { s with agenda := ag }
  /-- The engine's step. -/
  | engine (ag : List Event) (hb : s.busy = true) : Moved s (engineStep params { s with agenda := ag })
  /-- A register read. -/
  | read (ag : List Event) (r : Reg) : Moved s (regRead r { s with agenda := ag })
  /-- A rejected word. -/
  | rejected (ag : List Event) (e : ErrCode) (he : e ≠ .noError) : Moved s (recordError e { s with agenda := ag })
  /-- A command that is accepted: the head of the agenda writes its word to CMD. -/
  | command (ag : List Event) (addr : BusAddr) (data : List Byte) (w : Word) (i : Instr) (t : State)
      (hh : s.agenda = .busWrite addr data :: ag) (hr : admittedReg? addr data.length = some .cmd)
      (hw : wordOfBytes? data = some w) (hd : decodeWord w = .ok i)
      (hb : s.busy = true → i = .softReset) (he : exec i { s with agenda := ag } = .next t) : Moved s t
  /-- The reset input. -/
  | reset (ag : List Event) (hh : s.agenda = .resetInput :: ag) : Moved s (resetBlock params { s with agenda := ag })
  /-- The host stores a source pixel. -/
  | storeSrc (ag : List Event) (a : Coord) (p : Pixel) (hb : s.busy = false) :
      Moved s { s with agenda := ag, src := s.src.storeSrc a p }
  /-- The host allocates its destination. -/
  | allocDst (ag : List Event) (w h : Nat) (hb : s.busy = false) :
      Moved s { s with agenda := ag, dst := [], allocWidth := w, allocHeight := h }
  /-- The host stores a destination pixel. -/
  | storeDst (ag : List Event) (a : Coord) (p : Pixel) (hb : s.busy = false)
      (hi : a.inside s.allocWidth s.allocHeight = true) :
      Moved s { s with agenda := ag, dst := s.dst.insert a p }
  /-- The host receives a destination pixel; a free value may be drawn. -/
  | loadDst (ag : List Event) (p : Pixel) (n : Nat) :
      Moved s { s with agenda := ag, delivered := .pixel p :: s.delivered, draws := n }

theorem engineTurn_moved (s : State) (ag : List Event) : Moved s (engineTurn { s with agenda := ag }) := by
  unfold engineTurn
  split_ifs with hb
  · exact .engine ag hb
  · exact .quiet ag

theorem cmdWrite_moved {s t : State} {ag : List Event} {addr : BusAddr} {data : List Byte} {w : Word}
    (hh : s.agenda = .busWrite addr data :: ag) (hr : admittedReg? addr data.length = some .cmd)
    (hw : wordOfBytes? data = some w) (h : cmdWrite w { s with agenda := ag } = .next t) : Moved s t := by
  cases hd : decodeWord w with
  | ok i =>
    rw [cmdWrite_ok hd] at h
    by_cases hb : s.busy = true ∧ i ≠ .softReset
    · rw [exec_busy (s := { s with agenda := ag }) hb.1 hb.2] at h
      cases h
      exact .rejected ag _ (by simp)
    · refine .command ag addr data w i t hh hr hw hd (fun hb' => ?_) h
      by_contra hne
      exact hb ⟨hb', hne⟩
  | error r =>
    unfold cmdWrite at h
    rw [hd] at h
    split_ifs at h
    · cases h
      exact .rejected ag _ (by simp)
    · cases h
      exact .rejected ag _ (by cases r <;> simp [rejectCode])

theorem hostMove_next {s t : State} {k : State → Result} (h : hostMove s k = .next t) :
    s.busy = false ∧ k s = .next t := by
  unfold hostMove at h
  split_ifs at h with hb
  exact ⟨by simpa using hb, h⟩

theorem deliverPixel_next {s t : State} {o : Option Pixel} (h : s.deliverPixel o = .next t) :
    ∃ p, o = some p ∧ t = s.deliver (.pixel p) := by
  cases o with
  | none => cases h
  | some p =>
    cases h
    exact ⟨p, rfl, rfl⟩

/-- Everything a step that answers a next state can have done. -/
theorem step_cases {s t : State} (h : step s = .next t) : Moved s t := by
  unfold step takeStep at h
  cases hag : s.agenda with
  | nil =>
    rw [hag] at h
    cases h
    have := engineTurn_moved s s.agenda
    simpa using this
  | cons e rest =>
    rw [hag] at h
    cases e with
    | engineStep =>
      cases h
      exact engineTurn_moved s rest
    | busRead addr n =>
      simp only [runEvent, busRead] at h
      split at h
      · cases h
      · cases h
        exact .read rest _
    | busWrite addr data =>
      simp only [runEvent, busWrite] at h
      split at h
      · rename_i r w hr hw
        cases r <;> first
          | exact cmdWrite_moved hag hr hw h
          | (cases h; exact .quiet rest)
      · cases h
    | waitIdle =>
      simp only [runEvent] at h
      split_ifs at h with hb
      · cases h
        exact .engine _ hb
      · cases h
        exact .read rest _
    | resetInput =>
      cases h
      exact .reset rest hag
    | storeSrc a p =>
      obtain ⟨hb, h⟩ := hostMove_next (show hostStoreSrc a p { s with agenda := rest } = .next t from h)
      cases h
      exact .storeSrc rest a p hb
    | allocDst w h' =>
      obtain ⟨hb, h⟩ := hostMove_next (show hostAllocDst w h' { s with agenda := rest } = .next t from h)
      cases h
      exact .allocDst rest w h' hb
    | storeDst a p =>
      obtain ⟨hb, h⟩ := hostMove_next (show hostStoreDst a p { s with agenda := rest } = .next t from h)
      dsimp only at h
      split_ifs at h with hi
      cases h
      exact .storeDst rest a p hb hi
    | loadDst a =>
      simp only [runEvent, hostLoadDst] at h
      split_ifs at h with h1 h2
      · obtain ⟨p, _, rfl⟩ := deliverPixel_next h
        exact .loadDst rest p _
      · obtain ⟨p, _, rfl⟩ := deliverPixel_next h
        exact .loadDst rest p _
      · obtain ⟨p, _, rfl⟩ := deliverPixel_next h
        exact .loadDst rest p _

/-! ### A host load of a destination pixel -/

theorem hostLoadDst_outside {s : State} {a : Coord} (h : ¬a.inside s.allocWidth s.allocHeight = true) :
    hostLoadDst a s = .fault .outsideAllocation := by
  rw [hostLoadDst, if_neg h]

/-- Outside the region of a running render, and always while idle, a load is exact. -/
theorem hostLoadDst_exact {s : State} {a : Coord} (h : a.inside s.allocWidth s.allocHeight = true)
    (hr : ¬(s.busy = true ∧ s.inRegion a = true)) : hostLoadDst a s = s.deliverPixel (s.dst.lookup a) := by
  rw [hostLoadDst, if_pos h, if_neg (by simpa using hr)]

/-- In the region of a running render a load draws which value it sees (R187). -/
theorem hostLoadDst_early {s : State} {a : Coord} (h : a.inside s.allocWidth s.allocHeight = true)
    (hb : s.busy = true) (hr : s.inRegion a = true) :
    hostLoadDst a s = s.drawn.deliverPixel
      (if Config.earlyLoadSeesRendered s.draws a then some (s.rendered params a) else s.dstBefore.lookup a) := by
  rw [hostLoadDst, if_pos h, if_pos (by simp [hb, hr])]

theorem step_loadDst {s : State} {a : Coord} {rest : List Event} (h : s.agenda = .loadDst a :: rest) :
    step s = hostLoadDst a { s with agenda := rest } := by
  simp only [step, takeStep, h, runEvent]

end Sys2Proof.Machine
end

