-- ==== Sys2Proof/Tests/Slice0.lean ====
section
/-! SUPPORT. Own tests. Expected values come from spec/: the encodings of R72 and R74, the examples in the rules,
and the vectors of spec/95_test_vectors.md. The second half shows, for each statement with hypotheses, states and
operands that meet them. -/

namespace Sys2Proof.Tests.Slice0

open Sys2Proof Sys2Proof.Machine

/-! ### Small states -/

/-- An idle block about to be sent RENDER, for a `w × h` image of BLACK pixels. -/
def ready (w h : Dim) : State :=
  { State.reset with
    width := w
    height := h
    allocWidth := 4 * w.toNat
    allocHeight := 4 * h.toNat
    agenda := [cmdEvent 0x20000000#32] }

/-- A render of a `w × h` image of BLACK pixels that has not taken a step yet. -/
def running (w h : Dim) : State :=
  { State.reset with
    width := w
    height := h
    allocWidth := 4 * w.toNat
    allocHeight := 4 * h.toNat
    busy := true }

/-- `s` with its sequencer at a place. -/
def State.at (s : State) (sx sy : Dim) (sj si : Sub) : State := { s with sx := sx, sy := sy, sj := sj, si := si }

/-- `s` with `e` the next event. -/
def State.facing (s : State) (e : Event) : State := { s with agenda := [e] }

/-- A fact about the state a step or command answers; false where it stops. -/
def Result.gives (r : Result) (p : State → Bool) : Bool :=
  match r with
  | .next s => p s
  | .fault _ => false
  | .refused _ => false

/-- The STATUS word after a write of `w` to CMD. -/
def statusAfter (w : Word) (s : State) : Nat :=
  match cmdWrite w s with
  | .next t => t.statusWord.toNat
  | .fault _ => 0
  | .refused _ => 0

/-! ### Well-formedness: COL 6 and 7 are the ill-formed operands (R77) -/

theorem test_wf_refuses_col6 : (Instr.readLut 0 6).wf = false := by decide
theorem test_wf_refuses_col7 : (Instr.readLut 7 7).wf = false := by decide
theorem test_wf_accepts_col5 : (Instr.readLut 7 5).wf = true := by decide

/-! ### Decoding: words written bit by bit from R72 and R74 -/

theorem test_decode_nop : decodeTableWord 32 0b00000000_00000000_00000000_00000000 = some .nop := by decide
theorem test_decode_setMaskStrength :
    decodeTableWord 32 0b00000001_00000000_00000000_10110100 = some (.setMaskStrength 180) := by decide
theorem test_decode_setGapStrength :
    decodeTableWord 32 0b00000010_00000000_00000000_00110010 = some (.setGapStrength 50) := by decide
theorem test_decode_setWidth :
    decodeTableWord 32 0b00000011_00000000_10000000_00000001 = some (.setWidth 32769) := by decide
theorem test_decode_setHeight :
    decodeTableWord 32 0b00000100_00000000_00000001_00000000 = some (.setHeight 256) := by decide
theorem test_decode_genLut : decodeTableWord 32 0b00010000_00000000_00000000_00000000 = some .genLut := by decide
theorem test_decode_readLut :
    decodeTableWord 32 0b00010001_00000000_00000110_00000101 = some (.readLut 6 5) := by decide
theorem test_decode_render : decodeTableWord 32 0b00100000_00000000_00000000_00000000 = some .render := by decide
theorem test_decode_clearStatus :
    decodeTableWord 32 0b11110000_00000000_00000000_00000000 = some .clearStatus := by decide
theorem test_decode_softReset :
    decodeTableWord 32 0b11111111_00000000_00000000_00000000 = some .softReset := by decide

/-- Only four bytes make a word (R70), the first the least significant (R51). -/
theorem test_decode_bytes :
    decode [0x28, 0, 0, 0x01] = .ok (.setMaskStrength 40) ∧ decode [0, 0, 0x20] = .error .notOneWord := by
  constructor <;> rfl

/-! ### Words on an idle block: T-DEC-1 to T-DEC-12, T-DEC-17 -/

theorem test_dec_nop : statusAfter 0x00000000#32 State.reset = 0 := by decide
theorem test_dec_reserved :
    statusAfter 0x00000001#32 State.reset = 0x204 ∧ statusAfter 0x01000100#32 State.reset = 0x204 ∧
    statusAfter 0x03010000#32 State.reset = 0x204 ∧ statusAfter 0x11000800#32 State.reset = 0x204 ∧
    statusAfter 0x11000008#32 State.reset = 0x204 ∧ statusAfter 0x11FF0007#32 State.reset = 0x204 := by decide
theorem test_dec_illegal : statusAfter 0x05000000#32 State.reset = 0x104 := by decide
theorem test_dec_range : statusAfter 0x11000706#32 State.reset = 0x304 := by decide
theorem test_dec_mask :
    Result.gives (cmdWrite 0x01000028#32 State.reset) (fun s => s.regWord .config == 0x3228#32) = true := by decide
theorem test_dec_gap :
    Result.gives (cmdWrite 0x020000FF#32 State.reset) (fun s => s.regWord .config == 0xFFB4#32) = true := by decide
theorem test_dec_width :
    Result.gives (cmdWrite 0x0300FFFF#32 State.reset) (fun s => s.regWord .dims == 0xFFFF#32) = true := by decide
theorem test_dec_height :
    Result.gives (cmdWrite 0x04000001#32 State.reset) (fun s => s.regWord .dims == 0x10000#32) = true := by decide
theorem test_dec_readLut :
    Result.gives (cmdWrite 0x11000705#32 State.reset) (fun s => s.result == 0x00FFB4B4#32) = true := by decide
theorem test_readLut_old_tile :
    Result.gives (cmdWrite 0x11000103#32 { State.reset with maskStrength := 40 })
      (fun s => s.result == 0x008282CD#32) = true := by decide
theorem test_genLut :
    Result.gives (cmdWrite 0x10000000#32 { State.reset with maskStrength := 40 })
      (fun s => s.tile.cell 1 3 == ⟨205, 0, 0⟩ && s.tile.cell 0 1 == ⟨40, 255, 40⟩) = true := by decide
theorem test_clearStatus :
    statusAfter 0xF0000000#32 { State.reset with done := true, err := true, errCode := .illegalOpcode } = 0 := by
  decide
theorem test_first_error_kept :
    statusAfter 0x11000006#32 { State.reset with err := true, errCode := .illegalOpcode } = 0x104 := by decide
theorem test_softReset :
    Result.gives (cmdWrite 0xFF000000#32 { State.reset with maskStrength := 0, result := 1, done := true })
      (fun s => s.regWord .config == 0x32B4#32 && s.result == 0 && !s.done) = true := by decide

/-! ### Words on a busy block: T-DEC-13 to T-DEC-15 -/

theorem test_busy_reject :
    statusAfter 0x20000000#32 (running 1 1) = 0x405 ∧ statusAfter 0x05000000#32 (running 1 1) = 0x405 ∧
    statusAfter 0xFF000001#32 (running 1 1) = 0x205 := by decide

/-! ### Mask table: R107, T-LUT-5, T-LUT-8, T-LUT-11 -/

theorem test_tile :
    (genTile params 180 50).cell 7 2 = ⟨130, 130, 205⟩ ∧ (genTile params 180 50).cell 6 4 = ⟨180, 255, 180⟩ ∧
    (genTile params 0 255).cell 3 2 = black ∧ (genTile params 0 255).cell 3 4 = ⟨0, 255, 0⟩ := by decide
theorem test_tile_gap_phase :
    (genTile { params with gapPhase := 2 } 180 50).cell 1 3 = ⟨130, 130, 205⟩ := by decide

/-! ### Datapath: T-BLUR, T-GAP, T-BOOST, T-PIX-1 -/

theorem test_blur :
    blur 0 255 0 = 127 ∧ blur 1 255 0 = 191 ∧ blur 1 0 255 = 63 ∧ blur 1 100 200 = 125 ∧ blur 3 7 200 = 7 := by
  decide
theorem test_gap :
    gap params 0 61 = 1 ∧ gap params 0 59 = 0 ∧ gap params 3 121 = 1 ∧ gap params 3 255 = 135 ∧
    gap params 1 255 = 255 := by decide
theorem test_boost :
    boost params 255 255 = 255 ∧ boost params 228 180 = 230 ∧ boost params 255 130 = 185 ∧
    boost params 240 200 = 255 ∧ boost { params with boostPreclamp := true } 228 180 = 229 := by decide
theorem test_pixel :
    (({ running 1 1 with src := [(⟨0, 0⟩, ⟨255, 255, 255⟩)] } : State).rendered params ⟨3, 0⟩ = ⟨255, 197, 197⟩) ∧
    (({ running 1 1 with src := [(⟨0, 0⟩, ⟨255, 255, 255⟩)] } : State).rendered params ⟨0, 3⟩ = ⟨7, 4, 4⟩) := by
  decide

/-! ### RENDER and the engine: P3 and P7 -/

theorem test_render_starts :
    Result.gives (cmdWrite 0x20000000#32 { ready 1 1 with curRow := 5, maskStrength := 255, gapStrength := 0 })
      (fun s => s.busy && s.curRow == 0 && s.tile.cell 3 0 == ⟨255, 255, 255⟩) = true := by decide
theorem test_render_empty :
    Result.gives (cmdWrite 0x20000000#32 (ready 0 5))
      (fun s => s.regWord .status == 2#32 && s.regWord .pos == 0x50000#32) = true := by decide

/-- P3, the pixel (4, 0): red leaks from the left, and the cursor is (4, 4). -/
theorem test_engine_blurs :
    let s : State :=
      { State.at (running 2 1) 1 0 0 0 with
        src := [(⟨0, 0⟩, ⟨255, 0, 0⟩), (⟨1, 0⟩, ⟨0, 255, 0⟩)]
        prev := ⟨255, 0, 0⟩
        curRow := 4
        curCol := 4 }
    Result.gives (step s) (fun t => t.dst.lookup ⟨4, 0⟩ == some ⟨67, 95, 0⟩ && t.curCol == 5 && t.curRow == 4) =
      true := by decide

/-- The last step of a 1×1 render from (row 3, column 3): P1's end state. -/
theorem test_engine_ends :
    let s : State := { State.at (running 1 1) 0 0 3 3 with curRow := 3, curCol := 3 }
    Result.gives (step s) (fun t => t.regWord .status == 2#32 && t.regWord .cursor == 0x404#32 &&
      t.regWord .pos == 0x10000#32) = true := by decide

/-! ### Assembler: R79's examples, P2's and P3's lines -/

theorem test_assemble_lines :
    assemble? "SET_WIDTH 640 ; width\nREAD_LUT 1, 3\nLOAD STATUS" =
      some [cmdEvent 0x03000280#32, cmdEvent 0x11000103#32, .busRead (.window 4) 4] := by rfl
theorem test_assemble_pseudo :
    assemble? "SET_DIMS 2, 1\nRUN\n.word 0x11000006" =
      some [cmdEvent 0x03000002#32, cmdEvent 0x04000001#32, cmdEvent 0x20000000#32, .waitIdle,
        cmdEvent 0x11000006#32] := by rfl
theorem test_assemble_refuses :
    assemble? "SET_MASK_STRENGTH 256" = none ∧ assemble? "READ_LUT 0, 6" = none := by
  constructor <;> rfl
theorem test_assemble_text :
    number? "0x2F".toList = some 47 ∧ number? "12a".toList = none ∧ assembleLine? "RENDER 1".toList = none ∧
    assemble? "; only a comment\n\nNOP" = some [cmdEvent 0#32] := by refine ⟨?_, ?_, ?_, ?_⟩ <;> rfl

/-- A load outside the region of a running render is exact; an engine event while idle changes nothing. -/
theorem test_host_load_busy :
    Result.gives
      (hostLoadDst ⟨4, 0⟩ { running 1 1 with allocWidth := 5, dst := [(⟨4, 0⟩, ⟨7, 8, 9⟩)] })
      (fun t => t.delivered == [.pixel ⟨7, 8, 9⟩] && t.draws == 0) = true := by decide

/-! ### Witnesses: what each statement assumes can hold, clause by clause -/

theorem witness_DecodeEncodeReturnsCommand : (Instr.readLut 7 5).wf = true := by decide

theorem witness_AcceptedWordIsItsCommandsEncoding : decodeWord 0x11000705#32 = .ok (.readLut 7 5) := by rfl

/-- The five ways R78 ends: a busy block, then an unassigned opcode, a reserved bit, COL 6, and an accepted word. -/
theorem witness_CommandWriteFollowsProcedure :
    ((running 1 1).busy = true ∧ 0x20000000#32 >>> 24 ≠ 0xFF#32) ∧
    (State.reset.busy = false ∧
      0xFE000000#32 >>> 24 ∉
        [0x00#32, 0x01#32, 0x02#32, 0x03#32, 0x04#32, 0x10#32, 0x11#32, 0x20#32, 0xF0#32, 0xFF#32]) ∧
    (0x01000100#32 >>> 24 = 0x01#32 ∧ 0x01000100#32 &&& 0x00FFFF00#32 ≠ 0) ∧
    (0x11000706#32 >>> 24 = 0x11#32 ∧ 0x11000706#32 &&& 0x00FFF8F8#32 = 0 ∧ 6 ≤ (0x11000706#32 &&& 7#32).toNat) ∧
    (0x11000705#32 >>> 24 = 0x11#32 ∧ 0x11000705#32 &&& 0x00FFF8F8#32 = 0 ∧
      ¬6 ≤ (0x11000705#32 &&& 7#32).toNat) := by decide

theorem witness_StepRunsDecodedCommand :
    (ready 1 1).agenda = [.busWrite (.window 0x00) (wordBytes 0x20000000#32)] ∧
    decode (wordBytes 0x20000000#32) = .ok .render ∧ Instr.render.wf = true := ⟨rfl, rfl, rfl⟩

/-- A narrow, a misaligned and an outside access, and the first and last admitted offsets. -/
theorem witness_OnlyAlignedWordAccessesAreAdmitted :
    ¬(2 = 4 ∧ 0 % 4 = 0 ∧ 0 < 0x100) ∧ ¬(4 = 4 ∧ 1 % 4 = 0 ∧ 1 < 0x100) ∧ ¬(4 = 4 ∧ 0x100 % 4 = 0 ∧ 0x100 < 0x100) ∧
    (wordBytes 0#32).length = 4 ∧ (4 % 4 = 0 ∧ 0 < 4 ∧ 0xFC % 4 = 0 ∧ 0 < 0xFC ∧ 0xFC < 0x100) := by decide

theorem witness_ReadsAndStrayWritesHaveNoEffect :
    (0 % 4 = 0 ∧ 0 < 0x100) ∧ (0x20 % 4 = 0 ∧ 0x20 < 0x100 ∧ 0x20 ≤ 0x20) ∧
    (0xFC % 4 = 0 ∧ 0xFC < 0x100 ∧ 0xFC ≠ 0) ∧ (4 % 4 = 0 ∧ 4 < 0x100 ∧ 4 ≠ 0) := by decide

/-- An idle and a busy block: for NopLeavesEverything, SetCommandsLoadOneRegister, GenLutReloadsTile,
RegistersReadAsLaidOut, ClearStatusClearsFlags and BusyRejectsAllButSoftReset. -/
theorem witness_idle_and_busy :
    State.reset.busy = false ∧ (running 1 1).busy = true ∧ Instr.nop ≠ .softReset ∧
    0xF0000000#32 >>> 24 ≠ 0xFF#32 ∧ (0xFF000001#32 >>> 24 = 0xFF#32 ∧ 0xFF000001#32 ≠ 0xFF000000#32) ∧
    (0x00000001#32 >>> 24 = 0x00#32 ∧ 0x00000001#32 ≠ 0x00000000#32) ∧
    (0x10800000#32 >>> 24 = 0x10#32 ∧ 0x10800000#32 ≠ 0x10000000#32) ∧
    (0xF0000001#32 >>> 24 = 0xF0#32 ∧ 0xF0000001#32 ≠ 0xF0000000#32) ∧
    ({ State.reset with maskStrength := 255, gapStrength := 0 } : State).busy = false := by decide

theorem witness_ReadLutDeliversCell :
    State.reset.busy = false ∧ (5 : BitVec 3).toNat < 6 ∧ 6 ≤ (6 : BitVec 3).toNat ∧ 6 ≤ (7 : BitVec 3).toNat ∧
    (0x11000800#32 >>> 24 = 0x11#32 ∧ 0x11000800#32 &&& 0x00FFF8F8#32 ≠ 0) ∧ (running 1 1).busy = true := by decide

theorem witness_ReadLutSeesTileUntilReloaded : State.reset.busy = false ∧ (5 : BitVec 3).toNat < 6 := by decide

/-- The smallest and the largest image, each with exactly its allocation, on an idle block about to be sent RENDER:
for RenderStartsEngine and the statements about a whole render. -/
theorem witness_launch (w h : Dim) (hw : w ≠ 0) (hh : h ≠ 0) :
    (ready w h).busy = false ∧ (ready w h).width ≠ 0 ∧ (ready w h).height ≠ 0 ∧
    4 * (ready w h).width.toNat ≤ (ready w h).allocWidth ∧ 4 * (ready w h).height.toNat ≤ (ready w h).allocHeight ∧
    (ready w h).agenda = [.busWrite (.window 0x00) (wordBytes 0x20000000#32)] :=
  ⟨rfl, hw, hh, Nat.le_refl _, Nat.le_refl _, rfl⟩

theorem witness_launch_smallest_and_largest : (1 : Dim) ≠ 0 ∧ (65535 : Dim) ≠ 0 := by decide

/-- A coordinate inside and one outside the region of a 1×1 render, a source pixel inside, a last step, and (for
CursorRunsWithoutReset) a source pixel with one after it in a 2×1 image. -/
theorem witness_RenderedImageIsClosedForm :
    (3 < 4 * (1 : Dim).toNat ∧ 3 < 4 * (1 : Dim).toNat) ∧ ¬(4 < 4 * (1 : Dim).toNat ∧ 0 < 4 * (1 : Dim).toNat) ∧
    0 < (1 : Dim).toNat ∧ 0 < (1 : Dim).toNat * (1 : Dim).toNat ∧ 15 < 16 * (1 : Dim).toNat * (1 : Dim).toNat ∧
    0 + 1 < (2 : Dim).toNat * (1 : Dim).toNat := by decide

theorem witness_RenderOfEmptyImageCompletesAtOnce :
    (ready 0 5).busy = false ∧ (ready 0 5).width = 0 ∧ (ready 5 0).busy = false ∧ (ready 5 0).height = 0 := by decide

theorem witness_RenderWithoutAllocationIsRefused :
    let s : State := { ready 1 1 with allocWidth := 3 }
    let t : State := { ready 1 1 with allocHeight := 3 }
    (s.busy = false ∧ s.width ≠ 0 ∧ s.height ≠ 0 ∧ s.allocWidth < 4 * s.width.toNat) ∧
    (t.busy = false ∧ t.width ≠ 0 ∧ t.height ≠ 0 ∧ t.allocHeight < 4 * t.height.toNat) := by decide

theorem witness_ResetRestoresBlockAndAborts :
    (State.facing State.reset .resetInput).agenda = [.resetInput] ∧ State.reset.busy = false ∧
    (running 1 1).busy = true ∧ (3 < 4 * (running 1 1).width.toNat ∧ 3 < 4 * (running 1 1).height.toNat) ∧
    ¬(4 < 4 * (running 1 1).width.toNat ∧ 0 < 4 * (running 1 1).height.toNat) := by decide

theorem witness_GeneratedTileProperties :
    cellKind 1 3 = .gapBlend ∧ cellKind 7 2 = .gapBlend ∧ (50 : Byte).toNat ≤ (50 : Byte).toNat ∧
    (1 : Channel).val ≠ (3 : TileCol).val % 3 ∧ (4 : TileRow).val = (0 : TileRow).val + 4 ∧
    (7 : TileRow).val = (3 : TileRow).val + 4 := by decide

theorem witness_SpecialPixelValues :
    black.ch 0 = 0 ∧ blur 2 ((⟨120, 0, 0⟩ : Pixel).ch 0).toNat 0 ≤ 120 ∧ blur 2 ((⟨60, 0, 0⟩ : Pixel).ch 0).toNat 0 ≤ 60 ∧
    51000 ≤ (227 + 227 / 8) * 200 := by decide

/-- The agendas it speaks of, for a busy and an idle block, with an event after the engine's and with none. -/
theorem witness_EngineStepFollowsPseudocode_agendas :
    let s : State := { running 2 2 with agenda := [.engineStep, .waitIdle] }
    let idle : State := { State.reset with agenda := [.engineStep] }
    (s.agenda = .engineStep :: [.waitIdle] ∧ s.busy = true) ∧ (idle.agenda = .engineStep :: [] ∧ idle.busy = false) ∧
    ((running 2 2).agenda = [] ∧ (running 2 2).busy = true) ∧
    (State.reset.agenda = [] ∧ State.reset.busy = false) := by decide

/-- One busy state for each way the sequencer moves on in a 2×2 render. -/
theorem witness_EngineStepFollowsPseudocode :
    let s := State.at (running 2 2) 0 0 0 2
    let s1 := State.at (running 2 2) 0 0 2 3
    let s2 := State.at (running 2 2) 0 0 3 3
    let s3 := State.at (running 2 2) 1 0 3 3
    let s4 := State.at (running 2 2) 1 1 3 3
    (s.busy = true ∧ s.agenda = [] ∧ s.si.val < 3) ∧
    (s1.busy = true ∧ s1.agenda = [] ∧ s1.si.val = 3 ∧ s1.sj.val < 3) ∧
    (s2.busy = true ∧ s2.agenda = [] ∧ s2.si.val = 3 ∧ s2.sj.val = 3 ∧ s2.sx.toNat + 1 < s2.width.toNat) ∧
    (s3.busy = true ∧ s3.agenda = [] ∧ s3.si.val = 3 ∧ s3.sj.val = 3 ∧ s3.width.toNat ≤ s3.sx.toNat + 1 ∧
      s3.sy.toNat + 1 ≠ s3.height.toNat) ∧
    (s4.busy = true ∧ s4.agenda = [] ∧ s4.si.val = 3 ∧ s4.sj.val = 3 ∧ s4.width.toNat ≤ s4.sx.toNat + 1 ∧
      s4.sy.toNat + 1 = s4.height.toNat) := by decide

/-- Two launches that agree on what R136 names and differ in everything else it could depend on. -/
theorem witness_RenderDependsOnItsInputsAlone :
    let s := ready 1 1
    let s' : State :=
      { ready 1 1 with
        tile := genTile params 0 0, curRow := 3, curCol := 5, prev := ⟨1, 2, 3⟩, dst := [(⟨0, 0⟩, ⟨9, 9, 9⟩)]
        src := [(⟨7, 7⟩, ⟨1, 1, 1⟩)] }
    s'.busy = false ∧ 4 * s'.width.toNat ≤ s'.allocWidth ∧ 4 * s'.height.toNat ≤ s'.allocHeight ∧
    s'.agenda = [.busWrite (.window 0x00) (wordBytes 0x20000000#32)] ∧ s'.width = s.width ∧ s'.height = s.height ∧
    s'.maskStrength = s.maskStrength ∧ s'.gapStrength = s.gapStrength ∧ s'.srcRead 0 0 = s.srcRead 0 0 := by decide

/-- A good busy state: a 1×1 render that has not taken a step. -/
theorem witness_running_inv : Inv (running 1 1) := by
  constructor
  case srcCanonical => rfl
  case dstCanonical => rfl
  case beforeCanonical => rfl
  case dstInside => intro a p h; cases h
  case resultPacked => exact ⟨black, by decide⟩
  case tileGenerated => exact ⟨180, 50, rfl⟩
  case errPaired => decide
  case idlePosition => intro h; cases h
  case rendering =>
    intro _
    constructor
    case dstProgress =>
      intro a
      have h0 : (running 1 1).stepsTaken = 0 := by decide
      have h : (running 1 1).written a = false := by
        rw [State.written, h0, decide_eq_false (Nat.not_lt_zero _), Bool.and_false]
      rw [h]
      rfl
    all_goals decide

/-- For EveryRunningRenderCompletes, EngineStaysInsideImages, StepKeepsInvariant and
ConfigurationIsFixedWhileRendering. -/
theorem witness_running_steps :
    (running 1 1).busy = true ∧ (running 1 1).agenda = [] ∧
    ∃ t : State, step (running 1 1) = .next t ∧ t.busy = true := ⟨rfl, rfl, _, rfl, rfl⟩

/-- An idle block made busy; the next states of a command that changes TILE and of one that changes RESULT. -/
theorem witness_OnlyRenderMakesBusy :
    ((ready 1 1).busy = false ∧ ∃ t : State, step (ready 1 1) = .next t ∧ t.busy = true) ∧
    (∃ t : State, step (State.facing State.reset (cmdEvent 0x10000000#32)) = .next t) ∧
    (∃ t : State, step (State.facing State.reset (cmdEvent 0x11000705#32)) = .next t ∧
      t.result = 0x00FFB4B4#32) := ⟨⟨rfl, _, rfl, rfl⟩, ⟨_, rfl⟩, ⟨_, rfl, by decide⟩⟩

theorem witness_FirstErrorIsKept :
    let bad := cmdEvent 0x05000000#32
    let s : State := { State.reset with err := true, errCode := .range }
    (s.err = true ∧ ∃ t : State, step (State.facing s bad) = .next t ∧ t.errCode = .range) ∧
    (s.err = true ∧ ∃ t : State, step (State.facing s (cmdEvent 0xF0000000#32)) = .next t ∧ t.err = false) ∧
    (State.reset.err = false ∧ ∃ t : State, step (State.facing State.reset bad) = .next t ∧ t.err = true) :=
  ⟨⟨rfl, _, rfl, rfl⟩, ⟨rfl, _, rfl, rfl⟩, ⟨rfl, _, rfl, rfl⟩⟩

theorem witness_ResetMeetsInvariant : Memory.srcWf [(⟨0, 0⟩, ⟨1, 2, 3⟩), (⟨1, 0⟩, ⟨4, 5, 6⟩)] = true := by decide

/-- Each host move, idle and busy, at the last coordinate of an allocation and just outside it, with and without a value. -/
theorem witness_HostImageMoves :
    let p : Pixel := ⟨1, 2, 3⟩
    let s : State := { ready 1 1 with dst := [(⟨3, 3⟩, p)] }
    let b : State := { running 1 1 with allocWidth := 5, dst := [(⟨4, 3⟩, p)], dstBefore := [(⟨4, 3⟩, p)] }
    (s.busy = false ∧ 3 < s.allocWidth ∧ 3 < s.allocHeight ∧ s.dst.lookup ⟨3, 3⟩ = some p) ∧
    (0 < s.allocWidth ∧ 0 < s.allocHeight ∧ s.dst.lookup ⟨0, 0⟩ = none) ∧
    ¬(4 < s.allocWidth ∧ 3 < s.allocHeight) ∧
    (State.facing s (.storeSrc ⟨0, 0⟩ p)).agenda = [.storeSrc ⟨0, 0⟩ p] ∧
    (State.facing s (.allocDst 4 4)).agenda = [.allocDst 4 4] ∧
    (State.facing s (.storeDst ⟨3, 3⟩ p)).agenda = [.storeDst ⟨3, 3⟩ p] ∧
    (State.facing s (.loadDst ⟨3, 3⟩)).agenda = [.loadDst ⟨3, 3⟩] ∧
    (b.busy = true ∧ 4 < b.allocWidth ∧ 3 < b.allocHeight ∧ ¬(4 < 4 * b.width.toNat ∧ 3 < 4 * b.height.toNat) ∧
      b.dst.lookup ⟨4, 3⟩ = some p ∧ b.dst.lookup ⟨4, 0⟩ = none) ∧
    (3 < 4 * b.width.toNat ∧ 3 < 4 * b.height.toNat) ∧
    (State.facing b (.loadDst ⟨4, 3⟩)).agenda = [.loadDst ⟨4, 3⟩] := by decide

theorem witness_AssemblerReadsNumbers :
    (∀ d ∈ [6, 4, 0], d < 10) ∧ (∀ d ∈ [15, 10], d < 16) ∧ 'g' ∉ "0123456789abcdefABCDEF".toList ∧
    'x' ∉ "0123456789".toList ∧ (∀ v : List Char, ['1'] ++ 'x' :: [] ≠ '0' :: 'x' :: v) :=
  ⟨by decide, by decide, by simp, by simp, by simp⟩

theorem witness_AssemblerReadsLines :
    number? ['6', '4', '0'] = some 640 ∧ number? ['0', 'x', 'f'] = some 15 ∧ number? ['6', 'g'] = none ∧
    (∀ ch ∈ ['6', 'g'], isBlank ch = false ∧ ch ≠ ',' ∧ ch ≠ ';') ∧ ';' ∉ ['N', 'O', 'P'] ∧
    '\n' ∉ ['N', 'O', 'P'] ∧ (∀ ch ∈ [' ', ' '], ch = ' ') :=
  ⟨rfl, rfl, rfl, by simp [isBlank], by simp, by simp, by simp⟩

theorem witness_PseudoInstructionsExpand :
    (State.facing (running 1 1) .waitIdle).agenda = [.waitIdle] ∧ (running 1 1).busy = true ∧
    (State.facing State.reset .waitIdle).agenda = [.waitIdle] ∧ State.reset.busy = false := by decide

end Sys2Proof.Tests.Slice0
end

section
/-! PROOF. A word the decoder accepts is the encoding of its command, so that a step which ran a command names the
word its event wrote. -/

namespace Sys2Proof

@[simp] theorem op_instr (o : Op) (w : Word) : (o.instr w).op = o := by
  cases o <;> rfl

/-- Everything an accepted word has passed (R75, R76). -/
theorem decodeWord_ok {w : Word} {i : Instr} (h : decodeWord w = .ok i) :
    ∃ o : Op, o.opc = opcField w ∧ w &&& o.format.reservedZeroMask = 0#32 ∧ o.instr w = i := by
  unfold decodeWord at h
  cases ho : Op.ofOpc (opcField w) with
  | none => simp [ho] at h
  | some o =>
    simp only [ho] at h
    split_ifs at h with hr hwf
    exact ⟨o, opc_of_ofOpc ho, by simpa using hr, by simpa using h⟩

/-- A word with a row's opcode and none of its reserved bits is the encoding of what its fields hold: below the
opcode each bit stands in an operand field or under the reserved-zero mask (R72, R73). -/
theorem encode_instr {w : Word} {o : Op} (ho : o.opc = opcField w) (hr : w &&& o.format.reservedZeroMask = 0#32) :
    encode (o.instr w) = w := by
  apply BitVec.eq_of_getLsbD_eq
  intro k hk
  rw [encode_getLsbD, op_instr]
  split_ifs with h24
  · have hbit : (w.getLsbD k && o.format.reservedZeroMask.getLsbD k) = false := by
      rw [← BitVec.getLsbD_and, hr, BitVec.getLsbD_zero]
    clear ho hr
    rw [operandBits_getLsbD]
    cases o <;> simp only [Op.instr, Op.format, Format.reservedZeroMask] at hbit ⊢ <;> interval_cases k <;>
      simp_all [imm8Field, imm16Field, rowField, colField]
  · rw [ho, opcField_getLsbD w (by omega)]
    congr 1
    omega

/-- An accepted word is its command's encoding. -/
theorem encode_of_decodeWord {w : Word} {i : Instr} (h : decodeWord w = .ok i) : encode i = w := by
  obtain ⟨o, ho, hr, rfl⟩ := decodeWord_ok h
  exact encode_instr ho hr

/-- READ_LUT's word as its opcode word plus its operands (R72, R74). -/
theorem encode_readLut (row col : BitVec 3) :
    encode (.readLut row col) = 0x11000000#32 + BitVec.ofNat 32 (256 * row.toNat + col.toNat) :=
  encode_eq_add _ _ (by simp [Instr.op, Op.opc])

end Sys2Proof

namespace Sys2Proof.Machine

/-- The word that made a step run the command `i` is the encoding of `i`. -/
theorem writesCommand_encode {s : State} {addr : BusAddr} {data : List Byte} {ag : List Event} {w : Word} {i : Instr}
    (hh : s.agenda = .busWrite addr data :: ag) (hr : admittedReg? addr data.length = some .cmd)
    (hw : wordOfBytes? data = some w) (hd : decodeWord w = .ok i) : s.writesCommand (encode i) :=
  ⟨addr, data, ag, hh, hr, hw.trans (congrArg some (encode_of_decodeWord hd).symm)⟩

/-- What an accepted command can do, busy or not: `Ran` covers SOFT_RESET on a busy block too (R151, R163). -/
theorem exec_ran {s t : State} {i : Instr} (hb : s.busy = true → i = .softReset) (he : exec i s = .next t) :
    Ran s i t := by
  cases hs : s.busy with
  | false => exact exec_idle_cases hs he
  | true =>
    obtain rfl := hb hs
    cases he
    exact .softReset

theorem rowOperand_val (row : BitVec 3) : (rowOperand row).val = row.toNat :=
  Nat.mod_eq_of_lt row.isLt

@[simp] theorem resetBlock_notBusy (c : Config) (s : State) : (resetBlock c s).busy = false := by
  rw [resetBlock_registers]
  rfl

@[simp] theorem resetBlock_result (c : Config) (s : State) : (resetBlock c s).result = 0 := by
  rw [resetBlock_registers]
  rfl

end Sys2Proof.Machine
end

section
/-! PROOF. Register accesses: what a read leaves unchanged, which register an offset reaches, and each register's word
as a number. -/

namespace Sys2Proof.Machine

/-! ### Accesses -/

/-- A register read changes only what the host has received and the count of free draws (R36). -/
theorem regRead_eq (r : Reg) (s : State) :
    ∃ (v : Word) (n : Nat), regRead r s = { s with delivered := .word v :: s.delivered, draws := n } := by
  unfold regRead
  split_ifs
  · exact ⟨_, _, rfl⟩
  · exact ⟨_, s.draws, rfl⟩

@[simp] theorem regRead_busy (r : Reg) (s : State) : (regRead r s).busy = s.busy := by
  obtain ⟨v, n, h⟩ := regRead_eq r s
  rw [h]

@[simp] theorem regRead_result (r : Reg) (s : State) : (regRead r s).result = s.result := by
  obtain ⟨v, n, h⟩ := regRead_eq r s
  rw [h]

/-- A read that is not hidden delivers the register's word. -/
theorem regRead_exact {r : Reg} {s : State} (h : s.busy = true → r.hiddenWhileBusy = false) :
    regRead r s = s.deliver (.word (s.regWord r)) := by
  rw [regRead, if_neg]
  intro hh
  simp_all

/-- A hidden read delivers a free word (U1). -/
theorem regRead_hidden {r : Reg} {s : State} (hb : s.busy = true) (hr : r.hiddenWhileBusy = true) :
    regRead r s = (s.deliver (.word (Config.busyRead s.draws))).drawn := by
  rw [regRead, hb, hr]
  rfl

theorem busRead_window (s : State) {off : Nat} (h4 : off % 4 = 0) (hw : off < regWindow) :
    busRead (.window off) 4 s = .next (regRead (Reg.ofOffset off) s) := by
  simp only [busRead, admittedReg?_window h4 hw]

theorem busWrite_window (s : State) (w : Word) {off : Nat} (h4 : off % 4 = 0) (hw : off < regWindow) :
    busWrite (.window off) (wordBytes w) s = regWrite (Reg.ofOffset off) w s := by
  simp only [busWrite, length_wordBytes, wordOfBytes?_wordBytes, admittedReg?_window h4 hw]

/-- Only CMD takes a write (R36). -/
theorem regWrite_readOnly {r : Reg} (h : r ≠ .cmd) (w : Word) (s : State) : regWrite r w s = .next s := by
  cases r with
  | cmd => exact absurd rfl h
  | _ => rfl

theorem ofOffset_cmd {off : Nat} (h : Reg.ofOffset off = .cmd) : off = 0 := by
  unfold Reg.ofOffset at h
  split at h <;> simp_all

theorem ofOffset_reserved {off : Nat} (h : 0x20 ≤ off) : Reg.ofOffset off = .reserved := by
  unfold Reg.ofOffset
  split <;> first | rfl | omega

/-! ### Words as numbers (R29 to R35) -/

theorem statusWord_toNat (s : State) :
    s.statusWord.toNat = s.busy.toNat + 2 * s.done.toNat + 4 * s.err.toNat + 256 * s.errCode.code.toNat := by
  simp only [State.statusWord, append_toNat, BitVec.toNat_ofBool, BitVec.toNat_ofNat]
  omega

theorem configWord_toNat (s : State) : (s.regWord .config).toNat = s.maskStrength.toNat + 256 * s.gapStrength.toNat := by
  simp only [State.regWord, append_toNat, BitVec.toNat_ofNat]
  omega

theorem dimsWord_toNat (s : State) : (s.regWord .dims).toNat = s.width.toNat + 65536 * s.height.toNat := by
  simp only [State.regWord, append_toNat, dimBits]
  omega

theorem cursorWord_toNat (s : State) : (s.regWord .cursor).toNat = s.curRow.val + 256 * s.curCol.val := by
  have hrow : s.curRow.val < 8 := s.curRow.isLt
  have hcol : s.curCol.val < 6 := s.curCol.isLt
  simp only [State.regWord, append_toNat, BitVec.toNat_ofNat]
  omega

theorem posWord_toNat (s : State) : (s.regWord .pos).toNat = s.sx.toNat + 65536 * s.sy.toNat := by
  simp only [State.regWord, append_toNat, dimBits]
  omega

/-- An exact read, its word given as a number. -/
theorem busRead_exact {s : State} {off v : Nat} (h4 : off % 4 = 0) (hw : off < regWindow)
    (hx : s.busy = true → (Reg.ofOffset off).hiddenWhileBusy = false) (hv : (s.regWord (Reg.ofOffset off)).toNat = v) :
    busRead (.window off) 4 s = .next { s with delivered := .word (BitVec.ofNat 32 v) :: s.delivered } := by
  rw [busRead_window s h4 hw, regRead_exact hx, ← hv, BitVec.ofNat_toNat, BitVec.setWidth_eq]
  rfl

/-- A hidden read: CURSOR, PREV and POS while BUSY. -/
theorem busRead_hidden {s : State} {off : Nat} (h4 : off % 4 = 0) (hw : off < regWindow) (hb : s.busy = true)
    (hr : (Reg.ofOffset off).hiddenWhileBusy = true) :
    busRead (.window off) 4 s =
      .next { s with delivered := .word (Config.busyRead s.draws) :: s.delivered, draws := s.draws + 1 } := by
  rw [busRead_window s h4 hw, regRead_hidden hb hr]
  rfl

end Sys2Proof.Machine

open Sys2Proof Sys2Proof.Machine

/-- Settles O7, from what a read leaves unchanged and the registers that ignore a write. -/
theorem readsAndStrayWritesHaveNoEffect : Obligations.ReadsAndStrayWritesHaveNoEffect := by
  intro s off h4 hw
  refine ⟨?_, fun hz => ?_, fun hne w => ?_⟩
  · obtain ⟨v, n, h⟩ := regRead_eq (Reg.ofOffset off) s
    exact ⟨v, n, by rw [busRead_window s h4 hw, h]⟩
  · rcases hz with rfl | hres
    · exact busRead_exact h4 hw (fun _ => rfl) rfl
    · have hreg := ofOffset_reserved hres
      exact busRead_exact h4 hw (fun _ => by rw [hreg]; rfl) (by rw [hreg]; rfl)
  · rw [busWrite_window s w h4 hw, regWrite_readOnly (fun h => hne (ofOffset_cmd h))]

/-- Settles O8: each register's word as a number, delivered exactly unless the register is hidden while BUSY. -/
theorem registersReadAsLaidOut : Obligations.RegistersReadAsLaidOut := by
  intro s
  have idle : s.busy = false → ∀ r : Reg, s.busy = true → r.hiddenWhileBusy = false := by simp_all
  refine ⟨?_, ?_, ?_, ?_, fun hb => ⟨?_, ?_, ?_⟩, fun hb => ⟨?_, ?_, ?_⟩⟩
  · exact busRead_exact rfl (by decide) (fun _ => rfl) ((statusWord_toNat s).trans (by cases s.errCode <;> rfl))
  · exact busRead_exact rfl (by decide) (fun _ => rfl) rfl
  · exact busRead_exact rfl (by decide) (fun _ => rfl) (configWord_toNat s)
  · exact busRead_exact rfl (by decide) (fun _ => rfl) (dimsWord_toNat s)
  · exact busRead_exact rfl (by decide) (idle hb _) (cursorWord_toNat s)
  · exact busRead_exact rfl (by decide) (idle hb _) (pack_toNat s.prev)
  · exact busRead_exact rfl (by decide) (idle hb _) (posWord_toNat s)
  · exact busRead_hidden rfl (by decide) hb rfl
  · exact busRead_hidden rfl (by decide) hb rfl
  · exact busRead_hidden rfl (by decide) hb rfl

end

section
/-! PROOF. Which step can set BUSY, and which can change RESULT. -/

namespace Sys2Proof.Machine

/-- Of all commands only RENDER of a nonempty image sets BUSY (R130). -/
theorem Ran.render_of_busy {s t : State} {i : Instr} (hran : Ran s i t) (hs : s.busy = false) (ht : t.busy = true) :
    i = .render ∧ s.width ≠ 0 ∧ s.height ≠ 0 := by
  cases hran with
  | renderStart hne _ => exact ⟨rfl, not_or.1 hne⟩
  | _ => simp [hs] at ht

/-- What each command does to RESULT (R30, R110). -/
theorem Ran.result {s t : State} {i : Instr} (hran : Ran s i t) :
    t.result = s.result ∨ (i = .softReset ∧ t.result = 0) ∨
    ∃ (row col : BitVec 3) (h : col.toNat < tileCols), i = .readLut row col ∧
      t.result = (s.tile.cell (rowOperand row) ⟨col.toNat, h⟩).pack := by
  cases hran with
  | readLut row col h => exact .inr (.inr ⟨row, col, h, rfl, rfl⟩)
  | softReset => exact .inr (.inl ⟨rfl, resetBlock_result _ _⟩)
  | _ => exact .inl rfl

end Sys2Proof.Machine

open Sys2Proof Sys2Proof.Machine

/-- Settles O35: of all moves of an idle block only an accepted RENDER sets BUSY. -/
theorem onlyRenderMakesBusy : Obligations.OnlyRenderMakesBusy := by
  intro s t hstep hs ht
  cases step_cases hstep with
  | command ag addr data w i _ hh hr hw hd hb he =>
    have hran := exec_ran (s := { s with agenda := ag }) hb he
    obtain ⟨rfl, hwidth, hheight⟩ := hran.render_of_busy hs ht
    exact ⟨writesCommand_encode hh hr hw hd, hwidth, hheight⟩
  | engine ag hb => simp [hs] at hb
  | _ => simp [hs] at ht

/-- Settles O38: RESULT moves only with READ_LUT, SOFT_RESET and the reset input. -/
theorem resultChangesOnlyByReadLut : Obligations.ResultChangesOnlyByReadLut := by
  intro s t hstep
  cases step_cases hstep with
  | command ag addr data w i _ hh hr hw hd hb he =>
    have hword := writesCommand_encode hh hr hw hd
    have hran := exec_ran (s := { s with agenda := ag }) hb he
    rcases hran.result with hsame | ⟨rfl, hzero⟩ | ⟨row, col, hcol, rfl, hcell⟩
    · exact .inl hsame
    · exact .inr (.inl ⟨hzero, .inl hword⟩)
    · refine .inr (.inr ⟨rowOperand row, ⟨col.toNat, hcol⟩, hcell, ?_⟩)
      rwa [rowOperand_val, ← encode_readLut]
  | reset ag hh => exact .inr (.inl ⟨resetBlock_result _ _, .inr ⟨ag, hh⟩⟩)
  | engine ag hb => exact .inl (engineStep_sameSetting _).result
  | read ag r => exact .inl (regRead_result _ _)
  | _ => exact .inl rfl

end

section
/-! PROOF. Every move of the machine keeps the invariant: one lemma for each move of `Moved`, one for the commands of
`Ran`. -/

namespace Sys2Proof.Machine

/-! ### Moves outside the block -/

/-- A running render is not where the error flags, the agenda and the host's record are. -/
theorem Rendering.outside {s : State} (R : Rendering s) (err : Bool) (code : ErrCode) (ag : List Event)
    (d : List Delivered) (n : Nat) :
    Rendering { s with err := err, errCode := code, agenda := ag, delivered := d, draws := n } :=
  { R with }

/-- The invariant says nothing of the agenda and the host's record. -/
theorem Inv.outside {s : State} (I : Inv s) (ag : List Event) (d : List Delivered) (n : Nat) :
    Inv { s with agenda := ag, delivered := d, draws := n } :=
  { I with rendering := fun hb => (I.rendering hb).outside s.err s.errCode ag d n }

theorem Inv.agenda {s : State} (I : Inv s) (ag : List Event) : Inv { s with agenda := ag } :=
  I.outside ag s.delivered s.draws

theorem Inv.regRead {s : State} (I : Inv s) (r : Reg) : Inv (regRead r s) := by
  obtain ⟨v, n, h⟩ := regRead_eq r s
  rw [h]
  exact I.outside s.agenda _ n

/-- The host changes its source image while the block is idle (R185, R186). -/
theorem Inv.storeSrc {s : State} (I : Inv s) (hs : s.busy = false) (a : Coord) (p : Pixel) :
    Inv { s with src := s.src.storeSrc a p } :=
  { I with
    srcCanonical := srcWf_storeSrc s.src a p I.srcCanonical
    rendering := by simp [hs] }

theorem Inv.allocDst {s : State} (I : Inv s) (hs : s.busy = false) (w h : Nat) :
    Inv { s with dst := [], allocWidth := w, allocHeight := h } :=
  { I with
    dstCanonical := rfl
    dstInside := by simp
    rendering := by simp [hs] }

/-- One more pixel inside the allocation leaves the destination inside it. -/
theorem Inv.insert_inside {s : State} (I : Inv s) {a : Coord} (ha : a.inside s.allocWidth s.allocHeight = true)
    (p : Pixel) (b : Coord) (q : Pixel) (hq : (s.dst.insert a p).lookup b = some q) :
    b.inside s.allocWidth s.allocHeight = true := by
  rw [lookup_insert] at hq
  split_ifs at hq with hba
  · rwa [hba]
  · exact I.dstInside b q hq

theorem Inv.storeDst {s : State} (I : Inv s) (hs : s.busy = false) {a : Coord}
    (ha : a.inside s.allocWidth s.allocHeight = true) (p : Pixel) : Inv { s with dst := s.dst.insert a p } :=
  { I with
    dstCanonical := wf_insert s.dst a p I.dstCanonical
    dstInside := I.insert_inside ha p
    rendering := by simp [hs] }

/-! ### The error primitive -/

/-- Recording a real error sets ERR with a real code, or keeps the first one (R162). -/
theorem Inv.recordError {s : State} (I : Inv s) {e : ErrCode} (he : e ≠ .noError) : Inv (recordError e s) :=
  { I with
    errPaired := by
      have hpair := I.errPaired
      cases herr : s.err <;> simp_all
    rendering := fun hb => (I.rendering hb).outside true _ s.agenda s.delivered s.draws }

/-! ### The engine and reset -/

/-- The launch premise puts the whole region inside the allocation (R184). -/
theorem inside_of_inRegion {s : State} {a : Coord} (hall : s.dstAllocated = true) (hr : s.inRegion a = true) :
    a.inside s.allocWidth s.allocHeight = true := by
  simp only [State.dstAllocated, State.inRegion, Coord.inside_iff, Bool.and_eq_true, decide_eq_true_eq] at *
  omega

/-- The engine's step keeps the invariant, whether or not it ends the render (R131, R132). -/
theorem Inv.engineStep {s : State} (I : Inv s) (hb : s.busy = true) : Inv (engineStep params s) := by
  have R := I.rendering hb
  have same := engineStep_sameSetting s
  have hin := inside_of_inRegion R.allocated (dstCoord_inRegion R.sxInside R.syInside)
  have next := engineStep_rendering hb R
  constructor
  case srcCanonical => rw [same.src]; exact I.srcCanonical
  case dstCanonical => rw [engineStep_dst]; exact wf_insert _ _ _ I.dstCanonical
  case beforeCanonical =>
    rcases next with ⟨_, _, _, hbefore⟩ | last
    · rw [hbefore]; exact I.beforeCanonical
    · rw [last.dstBefore]; rfl
  case dstInside => rw [engineStep_dst, same.allocWidth, same.allocHeight]; exact I.insert_inside hin _
  case resultPacked => rw [same.result]; exact I.resultPacked
  case tileGenerated => rw [same.tile]; exact I.tileGenerated
  case errPaired => rw [same.err, same.errCode]; exact I.errPaired
  case idlePosition =>
    intro hidle
    rcases next with ⟨hbusy, _⟩ | last
    · simp [hbusy] at hidle
    · exact ⟨last.sx, last.sj, last.si, last.dstBefore⟩
  case rendering =>
    intro hbusy
    rcases next with ⟨_, R', _⟩ | last
    · exact R'
    · simp [last.busy] at hbusy

/-- An abort leaves a canonical destination inside the allocation (R181). -/
theorem Inv.resetBlock_dst {s : State} (I : Inv s) :
    (resetBlock params s).dst.wf = true ∧
    ∀ (a : Coord) (p : Pixel), (resetBlock params s).dst.lookup a = some p →
      a.inside s.allocWidth s.allocHeight = true := by
  cases hb : s.busy with
  | false =>
    rw [resetBlock_idle params s hb]
    exact ⟨I.dstCanonical, I.dstInside⟩
  | true =>
    rw [resetBlock_busy params s hb]
    refine ⟨abortRender_wf params s I.dstCanonical, fun a p hp => ?_⟩
    by_cases hr : s.inRegion a = true
    · exact inside_of_inRegion (I.rendering hb).allocated hr
    · have hlook := abortRender_lookup params s a
      rw [if_neg hr] at hlook
      exact I.dstInside a p (hlook.symm.trans hp)

theorem Inv.resetBlock {s : State} (I : Inv s) : Inv (resetBlock params s) := by
  obtain ⟨hwf, hin⟩ := I.resetBlock_dst
  rw [resetBlock_registers]
  exact {
    srcCanonical := I.srcCanonical
    dstCanonical := hwf
    beforeCanonical := rfl
    dstInside := hin
    resultPacked := ⟨black, rfl⟩
    tileGenerated := ⟨_, _, rfl⟩
    errPaired := iff_of_true rfl rfl
    idlePosition := fun _ => ⟨rfl, rfl, rfl, rfl⟩
    rendering := fun hb => Bool.noConfusion hb }

/-! ### Commands -/

/-- A render that RENDER has just started stands at its first step (R130). -/
theorem rendering_start {s : State} (hne : ¬(s.width = 0 ∨ s.height = 0)) (hall : s.dstAllocated = true) :
    Rendering (s.prepareRender params).beginBusy := by
  obtain ⟨hw, hh⟩ := not_or.1 hne
  have pos : ∀ {d : Dim}, d ≠ 0 → 0 < d.toNat := fun hd => Nat.pos_of_ne_zero fun h0 => hd (BitVec.eq_of_toNat_eq h0)
  constructor
  case sxInside => exact pos hw
  case syInside => exact pos hh
  case allocated => exact hall
  case tileCurrent => rfl
  case rowContinues => apply Fin.ext; simp [cursorRowAt_val, State.beginBusy]
  case colContinues => apply Fin.ext; simp [cursorColAt_val, State.beginBusy]
  case latched => exact fun h => absurd ⟨rfl, rfl⟩ h
  case leftKnown => exact fun h => absurd ⟨rfl, rfl, rfl⟩ h
  case dstProgress => intro a; simp [State.written, State.stepsTaken, State.beginBusy]
  case notDone => rfl

/-- Every command keeps the invariant. All but SOFT_RESET run on an idle block (R163), where no render has to be
followed; RENDER then starts one. -/
theorem Inv.ran {s t : State} {i : Instr} (I : Inv s) (hs : s.busy = true → i = .softReset) (hran : Ran s i t) :
    Inv t := by
  cases hran with
  | nop => exact I
  | setMaskStrength m => exact { I with rendering := fun hb => nomatch hs hb }
  | setGapStrength g => exact { I with rendering := fun hb => nomatch hs hb }
  | setWidth w => exact { I with rendering := fun hb => nomatch hs hb }
  | setHeight h => exact { I with rendering := fun hb => nomatch hs hb }
  | genLut => exact { I with tileGenerated := ⟨_, _, rfl⟩, rendering := fun hb => nomatch hs hb }
  | readLut row col _ => exact { I with resultPacked := ⟨_, rfl⟩, rendering := fun hb => nomatch hs hb }
  | readLutRange row col _ => exact I.recordError (by decide)
  | renderEmpty _ =>
    exact { I with
      tileGenerated := ⟨_, _, rfl⟩
      idlePosition := fun hb =>
        have ⟨_, _, _, hbefore⟩ := I.idlePosition hb
        ⟨rfl, rfl, rfl, hbefore⟩
      rendering := fun hb => nomatch hs hb }
  | renderStart hne hall =>
    exact { I with
      beforeCanonical := I.dstCanonical
      tileGenerated := ⟨_, _, rfl⟩
      idlePosition := fun hb => Bool.noConfusion hb
      rendering := fun _ => rendering_start hne hall }
  | clearStatus => exact { I with errPaired := iff_of_true rfl rfl, rendering := fun hb => nomatch hs hb }
  | softReset => exact I.resetBlock

end Sys2Proof.Machine

open Sys2Proof Sys2Proof.Machine

/-- Settles O31: each move of `Moved` keeps the invariant. -/
theorem stepKeepsInvariant : Obligations.StepKeepsInvariant := by
  intro s t I hstep
  cases step_cases hstep with
  | quiet ag => exact I.agenda ag
  | engine ag hb => exact (I.agenda ag).engineStep hb
  | read ag r => exact (I.agenda ag).regRead r
  | rejected ag e he => exact (I.agenda ag).recordError he
  | command ag addr data w i _ hh hr hw hd hb he => exact (I.agenda ag).ran hb (exec_ran hb he)
  | reset ag hh => exact (I.agenda ag).resetBlock
  | storeSrc ag a p hb => exact (I.agenda ag).storeSrc hb a p
  | allocDst ag w h hb => exact (I.agenda ag).allocDst hb w h
  | storeDst ag a p hb ha => exact (I.agenda ag).storeDst hb ha p
  | loadDst ag p n => exact I.outside ag _ n

end

section
/-! PROOF. Which bus accesses have a step: aligned 32-bit words inside the window, whichever way they are addressed. -/

namespace Sys2Proof.Machine

/-- An access that is not one aligned word inside the window reaches no register (R50). -/
theorem admittedReg?_window_none {off n : Nat} (h : ¬(n = 4 ∧ off % 4 = 0 ∧ off < regWindow)) :
    admittedReg? (.window off) n = none :=
  if_neg h

/-- An absolute address from REG_BASE on reaches what its offset reaches (R55). -/
theorem admittedReg?_absolute {addr : Nat} (h : Config.regBase ≤ addr) (n : Nat) :
    admittedReg? (.absolute addr) n = admittedReg? (.window (addr - Config.regBase)) n := by
  simp only [admittedReg?, BusAddr.offset?, if_pos h]

/-- An absolute address below REG_BASE reaches no register (R55). -/
theorem admittedReg?_absolute_none {addr : Nat} (h : ¬Config.regBase ≤ addr) (n : Nat) :
    admittedReg? (.absolute addr) n = none := by
  simp only [admittedReg?, BusAddr.offset?, if_neg h]

theorem busRead_none {addr : BusAddr} {n : Nat} (h : admittedReg? addr n = none) (s : State) :
    busRead addr n s = .fault .busError := by
  simp only [busRead, h]

theorem busWrite_none {addr : BusAddr} {data : List Byte} (h : admittedReg? addr data.length = none) (s : State) :
    busWrite addr data s = .fault .busError := by
  simp only [busWrite, h]

/-- A read depends on its address only through the register it reaches. -/
theorem busRead_congr {a b : BusAddr} {n : Nat} (h : admittedReg? a n = admittedReg? b n) (s : State) :
    busRead a n s = busRead b n s := by
  simp only [busRead, h]

/-- A write depends on its address only through the register it reaches. -/
theorem busWrite_congr {a b : BusAddr} {data : List Byte}
    (h : admittedReg? a data.length = admittedReg? b data.length) (s : State) :
    busWrite a data s = busWrite b data s := by
  simp only [busWrite, h]

/-- An admitted write of four bytes delivers their little-endian word (R51). -/
theorem busWrite_bytes (s : State) {off : Nat} (h4 : off % 4 = 0) (hw : off < regWindow) (b0 b1 b2 b3 : Byte) :
    busWrite (.window off) [b0, b1, b2, b3] s = regWrite (Reg.ofOffset off) (b3 ++ b2 ++ b1 ++ b0) s := by
  simp only [busWrite, wordOfBytes?, List.length_cons, List.length_nil, Nat.reduceAdd, admittedReg?_window h4 hw]

end Sys2Proof.Machine

open Sys2Proof Sys2Proof.Machine

/-- Settles O6, from which register an access reaches. -/
theorem onlyAlignedWordAccessesAreAdmitted : Obligations.OnlyAlignedWordAccessesAreAdmitted := by
  refine ⟨fun s off n data hbad => ?_, fun s off h4 hw => ?_, fun s off data h4 hpos hw hlen => ?_,
    fun s b0 b1 b2 b3 => ?_, fun s addr n data => ?_⟩
  · have hnone := admittedReg?_window_none hbad
    exact ⟨busRead_none hnone s, fun hlen => busWrite_none (hlen ▸ hnone) s⟩
  · exact ⟨_, busRead_window s h4 hw⟩
  · obtain ⟨b0, b1, b2, b3, rfl⟩ := List.length_eq_four.1 hlen
    have hreg : Reg.ofOffset off ≠ .cmd := fun h => Nat.ne_of_gt hpos (ofOffset_cmd h)
    exact ⟨s, (busWrite_bytes s h4 hw b0 b1 b2 b3).trans (regWrite_readOnly hreg _ s)⟩
  · exact busWrite_bytes s rfl (by decide) b0 b1 b2 b3
  · split_ifs with hbase
    · exact ⟨busRead_congr (admittedReg?_absolute hbase n) s, busWrite_congr (admittedReg?_absolute hbase _) s⟩
    · exact ⟨busRead_none (admittedReg?_absolute_none hbase n) s,
        busWrite_none (admittedReg?_absolute_none hbase _) s⟩

end

section
/-! PROOF. A render left alone from its RENDER write: where it stands after each step, and that each coordinate has
one step of its own. -/

namespace Sys2Proof.Machine

/-! ### The region -/

theorem dstCoord_lt {s : State} (R : Rendering s) :
    s.dstCoord.x < 4 * s.width.toNat ∧ s.dstCoord.y < 4 * s.height.toNat :=
  (Coord.inside_iff _ _ _).1 (dstCoord_inRegion R.sxInside R.syInside)

/-- Four times a dimension fits a destination coordinate's bits (R7). -/
theorem scaled_lt_dstCoordBits {v : Nat} {d : Dim} (h : v < 4 * d.toNat) : v < 2 ^ dstCoordBits := by
  have hd : d.toNat < 2 ^ 16 := d.isLt
  simp only [dstCoordBits]
  omega

/-- The engine stands at a source pixel's first sub-pixel exactly when it is about to write that pixel's first
destination coordinate (R126, R129). -/
theorem dstCoord_eq_first_iff (s : State) (x y : Nat) :
    s.dstCoord = ⟨4 * x, 4 * y⟩ ↔ s.si = 0 ∧ s.sj = 0 ∧ s.sx.toNat = x ∧ s.sy.toNat = y := by
  have hi := sub_le s.si
  have hj := sub_le s.sj
  simp only [State.dstCoord, scale, Coord.mk.injEq, Fin.ext_iff, Fin.val_zero]
  omega

/-- Every coordinate of the region has its place before the last step. -/
theorem writeIndex_lt {w h : Nat} {a : Coord} (hx : a.x < 4 * w) (hy : a.y < 4 * h) :
    writeIndex w a < 16 * w * h := by
  have rows : (a.y / 4 + 1) * w ≤ h * w := Nat.mul_le_mul_right _ (by omega)
  have total : 16 * w * h = 16 * (h * w) := by ring
  have row : (a.y / 4 + 1) * w = a.y / 4 * w + w := by ring
  unfold writeIndex
  simp only [scale]
  omega

/-! ### The launch -/

/-- An idle block about to be sent RENDER of a nonempty image that its allocation holds, and no event after it;
`witness_launch` gives one for every size. -/
structure Launch (s : State) : Prop where
  idle : s.busy = false
  width : s.width ≠ 0
  height : s.height ≠ 0
  fitsWidth : 4 * s.width.toNat ≤ s.allocWidth
  fitsHeight : 4 * s.height.toNat ≤ s.allocHeight
  agenda : s.agenda = [.busWrite (.window 0x00) (wordBytes 0x20000000#32)]

/-- The state in which the launched render has taken no step (R130). -/
def State.launched (s : State) : State := ({ s with agenda := [] }.prepareRender params).beginBusy

theorem Launch.allocated {s : State} (L : Launch s) : s.dstAllocated = true := by
  simp [State.dstAllocated, L.fitsWidth, L.fitsHeight]

theorem Launch.nonempty {s : State} (L : Launch s) : ¬(s.width = 0 ∨ s.height = 0) :=
  not_or.2 ⟨L.width, L.height⟩

/-- A launched render stands at its first step. -/
theorem Launch.rendering {s : State} (L : Launch s) : Rendering s.launched :=
  rendering_start (s := { s with agenda := [] }) L.nonempty L.allocated

/-- The RENDER write starts the engine (R78, R130). -/
theorem Launch.step_eq {s : State} (L : Launch s) : step s = .next s.launched :=
  calc step s
    _ = cmdWrite 0x20000000#32 { s with agenda := [] } := takeStep_cmdEvent L.agenda
    _ = exec .render { s with agenda := [] } := cmdWrite_ok rfl
    _ = .next s.launched := execRender_start L.idle L.nonempty L.allocated

/-- Where a launched render stands after `n` engine steps. -/
theorem Launch.runs {s : State} (L : Launch s) {n : Nat} (hn : n < 16 * s.width.toNat * s.height.toNat) :
    ∃ u : State, Host.Core.run core (1 + n) s = .next u ∧ u.busy = true ∧ Rendering u ∧ u.stepsTaken = n ∧
      SameSetting s.launched u ∧ u.dstBefore = s.dst := by
  have h0 : s.launched.stepsTaken = 0 := by simp [State.stepsTaken, State.launched]
  have hlast : s.launched.stepsTaken + n < 16 * s.launched.width.toNat * s.launched.height.toNat := by
    rw [h0, Nat.zero_add]
    exact hn
  obtain ⟨u, hrun, hb, R, hsteps, same, hbefore⟩ := run_engine L.rendering rfl rfl n hlast
  rw [h0, Nat.zero_add] at hsteps
  exact ⟨u, (run_add 1 n s _ (run_one _ _ L.step_eq)).trans hrun, hb, R, hsteps, same, hbefore⟩

/-! ### One step for each coordinate -/

/-- The `n`-th step, counted from 0, is the engine's at the coordinate whose place in the order is `n` (R60). -/
theorem Launch.nth_step {s : State} (L : Launch s) {n : Nat} (hn : n < 16 * s.width.toNat * s.height.toNat) :
    ∃ u : State, Host.Core.run core (1 + n) s = .next u ∧
      Host.Core.run core (1 + n + 1) s = .next (engineStep params u) ∧
      writeIndex s.width.toNat u.dstCoord = n ∧
      u.dstCoord.x < 4 * s.width.toNat ∧ u.dstCoord.y < 4 * s.height.toNat := by
  obtain ⟨u, hrun, hb, R, hsteps, same, _⟩ := L.runs hn
  have hnext := run_one u _ (step_drained same.agenda hb)
  have hwidth : u.width = s.width := same.width
  have hheight : u.height = s.height := same.height
  obtain ⟨hx, hy⟩ := dstCoord_lt R
  rw [hwidth] at hx
  rw [hheight] at hy
  refine ⟨u, hrun, (run_add (1 + n) 1 s u hrun).trans hnext, ?_, hx, hy⟩
  rw [← hwidth, writeIndex_dstCoord, hsteps]

/-- Each coordinate of the region is the engine's at exactly one step: the one its place in the order names (R59,
R60). -/
theorem Launch.existsUnique_step {s : State} (L : Launch s) {a : Coord} (hx : a.x < 4 * s.width.toNat)
    (hy : a.y < 4 * s.height.toNat) :
    ∃! n : Nat, n < 16 * s.width.toNat * s.height.toNat ∧
      ∃ u : State, Host.Core.run core (1 + n) s = .next u ∧ u.dstCoord = a := by
  refine ⟨writeIndex s.width.toNat a, ⟨writeIndex_lt hx hy, ?_⟩, ?_⟩
  · obtain ⟨u, hrun, _, hindex, hux, _⟩ := L.nth_step (writeIndex_lt hx hy)
    exact ⟨u, hrun, writeIndex_inj hux hx hindex⟩
  · rintro n ⟨hn, u, hrun, rfl⟩
    obtain ⟨v, hrun', _, hindex, _⟩ := L.nth_step hn
    obtain rfl : v = u := Host.Outcome.next.inj (hrun'.symm.trans hrun)
    exact hindex.symm

end Sys2Proof.Machine

open Sys2Proof Sys2Proof.Machine

/-- Settles O33: the sequencer is inside the source image, so its coordinate is inside the region, which the launch
premise puts inside the allocation. -/
theorem engineStaysInsideImages : Obligations.EngineStaysInsideImages := by
  intro s I hb
  have R := I.rendering hb
  obtain ⟨hx, hy⟩ := dstCoord_lt R
  exact ⟨R.sxInside, R.syInside, hx, hy, scaled_lt_dstCoordBits hx, scaled_lt_dstCoordBits hy,
    inside_of_inRegion R.allocated (dstCoord_inRegion R.sxInside R.syInside)⟩

/-- Settles O28. A source pixel's first sub-pixel is the step of its first destination coordinate, so the third clause
follows from the second. -/
theorem eachPixelIsWrittenOnceInOrder : Obligations.EachPixelIsWrittenOnceInOrder := by
  intro s hs hw hh haw hah hag
  have L : Launch s := ⟨hs, hw, hh, haw, hah, hag⟩
  refine ⟨fun n hn => ?_, fun a hx hy => L.existsUnique_step hx hy, fun x y hx hy => ?_⟩
  · obtain ⟨u, hrun, hnext, hindex, hx, hy⟩ := L.nth_step hn
    refine ⟨u, _, hrun, hnext, hindex, hx, hy, ⟨u.outPixel, ?_⟩, fun a ha => ?_⟩
    · rw [engineStep_dst, lookup_insert_self]
    · rw [engineStep_dst, lookup_insert_other _ _ _ _ ha]
  · have hfirst := L.existsUnique_step (a := ⟨4 * x, 4 * y⟩) (by simp only; omega) (by simp only; omega)
    simpa only [dstCoord_eq_first_iff] using hfirst

end

section
/-! PROOF. Decoding gives back what was encoded: the ways from a word to its command (bytes, table word, step) all go
through `decodeWord`, and `decodeWord` undoes `encode`. -/

namespace Sys2Proof

/-- Every command's encoding, per constructor (R71 to R74). -/
theorem encodedFields (i : Instr) : Laws.EncodedFields.Statement i := by
  cases i with
  | nop => exact Laws.EncodedFields.nop
  | setMaskStrength m => exact Laws.EncodedFields.setMaskStrength m
  | setGapStrength g => exact Laws.EncodedFields.setGapStrength g
  | setWidth w => exact Laws.EncodedFields.setWidth w
  | setHeight h => exact Laws.EncodedFields.setHeight h
  | genLut => exact Laws.EncodedFields.genLut
  | readLut row col => exact Laws.EncodedFields.readLut row col
  | render => exact Laws.EncodedFields.render
  | clearStatus => exact Laws.EncodedFields.clearStatus
  | softReset => exact Laws.EncodedFields.softReset

/-- An encoded command passes every check of R78, in order: opcode, reserved bits, range. -/
theorem decodeWord_encode {i : Instr} (hwf : i.wf = true) : decodeWord (encode i) = .ok i := by
  obtain ⟨hopc, hreserved, -, hoperands⟩ := encodedFields i
  have hrow : Op.ofOpc (opcField (encode i)) = some i.op := by rw [hopc, ofOpc_opc]
  simp [decodeWord, hrow, hreserved, hoperands, hwf]

/-- The last check an accepted word has passed (R77). -/
theorem wf_of_decodeWord {w : Word} {i : Instr} (h : decodeWord w = .ok i) : i.wf = true := by
  unfold decodeWord at h
  split at h
  · cases h
  · split_ifs at h with _ hwf
    cases h
    exact hwf

/-- The four bytes of a word are a command exactly where the word is. -/
theorem decode_wordBytes_eq_ok {w : Word} {i : Instr} : decode (wordBytes w) = .ok i ↔ decodeWord w = .ok i := by
  simp only [decode, wordOfBytes?_wordBytes]
  cases decodeWord w <;> simp

/-- A word read as a table word of 32 bits is itself. -/
@[simp] theorem ofNat_toNat_mod (w : Word) : BitVec.ofNat 32 (w.toNat % 2 ^ 32) = w := by
  rw [Nat.mod_eq_of_lt w.isLt, BitVec.ofNat_toNat, BitVec.setWidth_eq]

theorem decodeTableWord_encode {i : Instr} (hwf : i.wf = true) : decodeTableWord 32 (encode i).toNat = some i := by
  rw [decodeTableWord, ofNat_toNat_mod, decode_wordBytes_eq_ok.2 (decodeWord_encode hwf)]

end Sys2Proof

namespace Sys2Proof.Machine

@[simp] theorem withFetchWord_agenda (s : State) (w : Word) :
    (s.withFetchWord 32 w.toNat).agenda = cmdEvent w :: s.agenda := by
  rw [State.withFetchWord, ofNat_toNat_mod]

/-- Taking the fetched word from the agenda leaves the state as it was before the fetch (assumption log 4). -/
theorem step_withFetchWord (s : State) (w : Word) : step (s.withFetchWord 32 w.toNat) = cmdWrite w s :=
  takeStep_cmdEvent (withFetchWord_agenda s w)

end Sys2Proof.Machine

open Sys2Proof Sys2Proof.Machine

/-- Settles O1: `decodeWord` undoes `encode`, and the bytes and the table word are read through it. -/
theorem decodeEncodeReturnsCommand : Obligations.DecodeEncodeReturnsCommand := fun _ hwf =>
  ⟨decode_wordBytes_eq_ok.2 (decodeWord_encode hwf), decodeTableWord_encode hwf⟩

/-- Settles O2, from the checks an accepted word has passed. -/
theorem acceptedWordIsItsCommandsEncoding : Obligations.AcceptedWordIsItsCommandsEncoding := fun _ _ h =>
  ⟨wf_of_decodeWord h, encode_of_decodeWord h⟩

/-- Settles O3: each word of the table is the encoding of its well-formed command. -/
theorem tableWordsDecode : Obligations.TableWordsDecode :=
  ⟨decodeTableWord_encode (i := .nop) rfl,
    decodeTableWord_encode (i := .setMaskStrength 180) rfl,
    decodeTableWord_encode (i := .setGapStrength 50) rfl,
    decodeTableWord_encode (i := .setWidth 2) rfl,
    decodeTableWord_encode (i := .setHeight 65534) rfl,
    decodeTableWord_encode (i := .genLut) rfl,
    decodeTableWord_encode (i := .readLut 1 3) rfl,
    decodeTableWord_encode (i := .render) rfl,
    decodeTableWord_encode (i := .clearStatus) rfl,
    decodeTableWord_encode (i := .softReset) rfl⟩

/-- Settles O5: a step whose event writes CMD is `cmdWrite`, and `cmdWrite` of an accepted word is `exec`. -/
theorem stepRunsDecodedCommand : Obligations.StepRunsDecodedCommand := by
  refine ⟨fun s w rest hag => takeStep_cmdEvent hag, fun s w rest i hag hd => ?_, fun s i hwf => ?_⟩
  · exact (takeStep_cmdEvent hag).trans (cmdWrite_ok (decode_wordBytes_eq_ok.1 hd))
  · exact (step_withFetchWord s (encode i)).trans (cmdWrite_ok (decodeWord_encode hwf))

end

section
/-! PROOF. What a line assembles to: an operand in its field stands for the number written, any other is refused. -/

namespace Sys2Proof.Machine

/-- A command word as its opcode part plus its operand number (R72, R74). -/
theorem commandEvent_eq {i : Instr} {base : Nat} (hbase : i.op.opc.toNat * 2 ^ 24 = base) :
    commandEvent i = cmdEvent (BitVec.ofNat 32 (base + i.operandNat)) := by
  rw [commandEvent, ← hbase, ← encode_toNat, BitVec.ofNat_toNat, BitVec.setWidth_eq]

theorem asmField_of_lt {n v : Nat} (h : v < 2 ^ n) : asmField n v = some (BitVec.ofNat n v) := if_pos h

theorem asmField_of_not_lt {n v : Nat} (h : ¬v < 2 ^ n) : asmField n v = none := if_neg h

/-- A line with one operand of `n` bits and the largest value `top` (R79). -/
theorem asmField_map_event {n top base : Nat} {event : BitVec n → Event} (htop : top + 1 = 2 ^ n)
    (hevent : ∀ x : BitVec n, event x = cmdEvent (BitVec.ofNat 32 (base + x.toNat))) (v : Nat) :
    ((asmField n v).map fun x => [event x]) =
      if v ≤ top then some [cmdEvent (BitVec.ofNat 32 (base + v))] else none := by
  by_cases hv : v ≤ top
  · have hlt : v < 2 ^ n := by omega
    rw [asmField_of_lt hlt, if_pos hv, Option.map_some, hevent, BitVec.toNat_ofNat, Nat.mod_eq_of_lt hlt]
  · rw [asmField_of_not_lt (by omega), if_neg hv, Option.map_none]

/-- READ_LUT's operands: ROW in its field, COL in the range of R77. -/
theorem assemble_readLut (r c : Nat) : (AsmLine.readLut r c).assemble =
    if r ≤ 7 ∧ c ≤ 5 then some [cmdEvent (BitVec.ofNat 32 (0x11000000 + 256 * r + c))] else none := by
  by_cases hr : r < 2 ^ 3
  · by_cases hc : c < 2 ^ 3
    · have hwf : (Instr.readLut (BitVec.ofNat 3 r) (BitVec.ofNat 3 c)).wf = true ↔ r ≤ 7 ∧ c ≤ 5 := by
        simp only [Instr.wf, BitVec.toNat_ofNat, decide_eq_true_eq, tileCols]
        omega
      have hword : commandEvent (.readLut (BitVec.ofNat 3 r) (BitVec.ofNat 3 c)) =
          cmdEvent (BitVec.ofNat 32 (0x11000000 + 256 * r + c)) := by
        rw [commandEvent_eq (base := 0x11000000) (by simp [Instr.op, Op.opc]), Instr.operandNat, BitVec.toNat_ofNat,
          BitVec.toNat_ofNat, Nat.mod_eq_of_lt hr, Nat.mod_eq_of_lt hc, Nat.add_assoc]
      simp only [AsmLine.assemble, asmField_of_lt hr, asmField_of_lt hc, hwf, hword]
    · rw [AsmLine.assemble, asmField_of_lt hr, asmField_of_not_lt hc, if_neg (by omega)]
  · rw [AsmLine.assemble, asmField_of_not_lt hr, if_neg (by omega)]

/-- WAIT_IDLE while BUSY: the engine steps and the wait stays (assumption log 9). -/
theorem step_waitIdle_busy {s : State} {rest : List Event} (hag : s.agenda = .waitIdle :: rest) (hb : s.busy = true) :
    step s = .next (engineStep params s) := by
  simp only [step, takeStep, hag, runEvent, if_pos hb]
  rw [← hag]

/-- WAIT_IDLE while idle is one read of STATUS (R80). -/
theorem step_waitIdle_idle {s : State} {rest : List Event} (hag : s.agenda = .waitIdle :: rest) (hb : s.busy = false) :
    step s = busRead (.window 0x04) 4 { s with agenda := rest } := by
  rw [busRead_window _ (by decide) (by decide)]
  simp [step, takeStep, hag, runEvent, hb, Reg.ofOffset]

end Sys2Proof.Machine

open Sys2Proof Sys2Proof.Machine

/-- Settles O40: lines without an operand by evaluation, lines with one from `asmField_map_event`. -/
theorem assemblerEncodesOrRefuses : Obligations.AssemblerEncodesOrRefuses := by
  refine ⟨⟨rfl, rfl, rfl, rfl, rfl⟩, ⟨rfl, rfl, rfl, rfl, rfl, rfl, rfl, rfl⟩, fun v r c => ⟨?_, ?_, ?_, ?_, ?_, ?_⟩⟩
  · exact asmField_map_event rfl (fun x => commandEvent_eq (i := .setMaskStrength x) (by simp [Instr.op, Op.opc])) v
  · exact asmField_map_event rfl (fun x => commandEvent_eq (i := .setGapStrength x) (by simp [Instr.op, Op.opc])) v
  · exact asmField_map_event rfl (fun x => commandEvent_eq (i := .setWidth x) (by simp [Instr.op, Op.opc])) v
  · exact asmField_map_event rfl (fun x => commandEvent_eq (i := .setHeight x) (by simp [Instr.op, Op.opc])) v
  · exact assemble_readLut r c
  · rw [AsmLine.assemble, asmField]
    split_ifs <;> rfl

/-- Settles O41: an expansion is refused exactly where one of its lines is. -/
theorem pseudoInstructionsExpand : Obligations.PseudoInstructionsExpand := by
  refine ⟨fun w h => ?_, fun m g => ?_, rfl, fun s rest hag => ⟨step_waitIdle_busy hag, step_waitIdle_idle hag⟩⟩
  · simp only [AsmLine.assemble]
    cases asmField 16 w <;> cases asmField 16 h <;> rfl
  · simp only [AsmLine.assemble]
    cases asmField 8 m <;> cases asmField 8 g <;> rfl

end

section
/-! PROOF. Numbers: digits are read most significant first, and a character that is no digit of the base spoils the
text. -/

namespace Sys2Proof.Machine

/-- The digits of a base up to 16, written as characters, are read as their value. -/
theorem digitsFrom?_digitChar {base : Nat} (hbase : base ≤ 16) {ds : List Nat} (hds : ∀ d ∈ ds, d < base) (acc : Nat) :
    digitsFrom? base acc (ds.map Nat.digitChar) = some (ds.foldl (fun acc d => base * acc + d) acc) := by
  induction ds generalizing acc with
  | nil => rfl
  | cons d ds ih =>
    have hd : d < base := hds d (by simp)
    rw [List.map_cons, digitsFrom?_cons _ (digitValue?_digitChar (by omega)) hd, ih fun e he => hds e (by simp [he]),
      List.foldl_cons, Nat.mul_comm]

/-- A text that is nonempty and has no `0x` in front is read in base 10. -/
theorem number?_decimal {t : List Char} (hne : t ≠ []) (hx : ∀ v : List Char, t ≠ '0' :: 'x' :: v) :
    number? t = digitsFrom? 10 0 t := by
  rcases number?_cases t with ⟨h, _⟩ | ⟨h, _⟩ | ⟨v, _, h, _⟩ | ⟨_, _, h⟩
  · exact absurd h hne
  · exact absurd h (hx [])
  · exact absurd h (hx v)
  · exact h

theorem number?_hex {t : List Char} (hne : t ≠ []) : number? ('0' :: 'x' :: t) = digitsFrom? 16 0 t := by
  obtain ⟨c, u, rfl⟩ := List.exists_cons_of_ne_nil hne
  rfl

/-- `x` is no digit. -/
theorem map_digitChar_not_hex {ds : List Nat} (hds : ∀ d ∈ ds, d < 16) (v : List Char) :
    ds.map Nat.digitChar ≠ '0' :: 'x' :: v := by
  intro h
  have hx : 'x' ∈ ds.map Nat.digitChar := by simp [h]
  obtain ⟨d, hd, hchar⟩ := List.mem_map.1 hx
  have hval := digitValue?_digitChar (hds d hd)
  rw [hchar] at hval
  cases hval

/-- The characters with a value: the digits of the two bases. -/
theorem mem_digits_of_digitValue? {ch : Char} {d : Nat} (h : digitValue? ch = some d) :
    ch ∈ "0123456789abcdefABCDEF".toList ∧ (d < 10 → ch ∈ "0123456789".toList) := by
  have hcode : ch.toNat < 103 := by
    have key : ∀ c : Char, ch ≤ c → c.toNat < 103 → ch.toNat < 103 := fun c hle hc => Nat.lt_of_le_of_lt hle hc
    unfold digitValue? at h
    split_ifs at h with h0 ha hA
    · exact key '9' h0.2 (by decide)
    · exact key 'f' ha.2 (by decide)
    · exact key 'F' hA.2 (by decide)
  have check : ∀ n < 103, ∀ d ∈ digitValue? (Char.ofNat n),
      Char.ofNat n ∈ "0123456789abcdefABCDEF".toList ∧ (d < 10 → Char.ofNat n ∈ "0123456789".toList) := by
    decide
  have := check ch.toNat hcode d
  rw [Char.ofNat_toNat] at this
  exact this h

end Sys2Proof.Machine

open Sys2Proof Sys2Proof.Machine

/-- Settles O42: `number?` picks the base, and `digitsFrom?` reads the digits. -/
theorem assemblerReadsNumbers : Obligations.AssemblerReadsNumbers := by
  refine ⟨fun ds hne hds => ?_, fun ds hne hds => ?_, ⟨rfl, rfl⟩, fun t u ch hch hx => ?_, fun t u ch hch => ?_⟩
  · have hlt : ∀ d ∈ ds, d < 16 := fun d hd => (hds d hd).trans (by decide)
    rw [number?_decimal (by simpa using hne) (map_digitChar_not_hex hlt), digitsFrom?_digitChar (by decide) hds]
  · rw [number?_hex (by simpa using hne), digitsFrom?_digitChar (by decide) hds]
  · rw [number?_decimal (by simp) hx]
    exact digitsFrom?_none (fun d hd hlt => hch ((mem_digits_of_digitValue? hd).2 hlt)) t u 0
  · rw [number?_hex (by simp)]
    exact digitsFrom?_none (fun d hd _ => hch (mem_digits_of_digitValue? hd).1) t u 0

end

section
/-! PROOF. Lines: a mnemonic is looked up in the table of its number of operands, so a line with another number of them
is refused. -/

namespace Sys2Proof.Machine

/-- A name that no row of the table has. -/
theorem named?_eq_none {α : Type} {table : List (List Char × α)} {name : List Char}
    (h : ∀ row ∈ table, row.1 ≠ name) : named? table name = none := by
  have hfind : table.find? (fun row => row.1 == name) = none := by simpa using h
  rw [named?, hfind, Option.map_none]

/-- No number names a register. -/
theorem regNames_number {t : List Char} {v : Nat} (hv : number? t = some v) : named? regNames t = none := by
  refine named?_eq_none fun row hrow heq => ?_
  have hnone : ∀ row ∈ regNames, number? row.1 = none := by decide
  have := hnone row hrow
  rw [heq, hv] at this
  cases this

/-- No text with a comma names a register. -/
theorem regNames_comma {t : List Char} (ht : ',' ∈ t) : named? regNames t = none := by
  refine named?_eq_none fun row hrow heq => ?_
  have hnone : ∀ row ∈ regNames, ',' ∉ row.1 := by decide
  exact hnone row hrow (heq ▸ ht)

/-! ### LOAD -/

theorem statement?_load (o : List Char) : statement? "LOAD".toList o = (named? regNames o).map .load := if_pos rfl

/-- LOAD is a mnemonic like the others. -/
theorem plain_load : Plain "LOAD".toList ∧ "LOAD".toList ≠ [] := plain_mnemonic (by decide)

theorem assembleLine?_load {t : List Char} (ht : Plain t) (hne : t ≠ []) :
    assembleLine? ("LOAD".toList ++ ' ' :: t) = (named? regNames t).bind fun r => (AsmLine.load r).assemble := by
  rw [assembleLine?_one plain_load.1 plain_load.2 ht hne, statement?_load]
  exact Option.bind_map ..

theorem assembleLine?_load_bare : assembleLine? "LOAD".toList = none := by
  rw [assembleLine?_bare plain_load.1 plain_load.2, statement?_load]
  rfl

theorem assembleLine?_load_number {t : List Char} {v : Nat} (hv : number? t = some v) :
    assembleLine? ("LOAD".toList ++ ' ' :: t) = none := by
  obtain ⟨hne, ht⟩ := number?_plain hv
  rw [assembleLine?_load ht hne, regNames_number hv, Option.bind_none]

theorem assembleLine?_load_numbers {t u : List Char} {v w : Nat} (hv : number? t = some v) (hw : number? u = some w) :
    assembleLine? ("LOAD".toList ++ ' ' :: (t ++ ',' :: ' ' :: u)) = none := by
  obtain ⟨htne, ht⟩ := number?_plain hv
  obtain ⟨hune, hu⟩ := number?_plain hw
  rw [assembleLine?_two plain_load.1 plain_load.2 ht htne hu hune, statement?_load, regNames_comma (by simp)]
  rfl

/-! ### The other mnemonics, by the number of operands -/

section
variable {m : String} (hm : m ∈ mnemonics ∧ m.toList ≠ "LOAD".toList)
include hm

theorem assembleLine?_plain : assembleLine? m.toList = (named? plainLines m.toList).bind AsmLine.assemble := by
  obtain ⟨hplain, hne⟩ := plain_mnemonic hm.1
  rw [assembleLine?_bare hplain hne, statement?, if_neg hm.2]
  rfl

/-- A line with one operand text: the number is read before the mnemonic is looked up. -/
theorem assembleLine?_operand {t : List Char} (ht : Plain t) (hne : t ≠ []) :
    assembleLine? (m.toList ++ ' ' :: t) =
      (number? t).bind fun v => (named? unaryLines m.toList).bind fun f => (f v).assemble := by
  obtain ⟨hplain, hmne⟩ := plain_mnemonic hm.1
  rw [assembleLine?_one hplain hmne ht hne, statement?, if_neg hm.2, operands?_one ht hne]
  cases number? t with
  | none => rfl
  | some v => exact Option.bind_map ..

theorem assembleLine?_unary {t : List Char} {v : Nat} (hv : number? t = some v) :
    assembleLine? (m.toList ++ ' ' :: t) = (named? unaryLines m.toList).bind fun f => (f v).assemble := by
  obtain ⟨hne, ht⟩ := number?_plain hv
  rw [assembleLine?_operand hm ht hne, hv, Option.bind_some]

theorem assembleLine?_binary {t u : List Char} {v w : Nat} (hv : number? t = some v) (hw : number? u = some w) :
    assembleLine? (m.toList ++ ' ' :: (t ++ ',' :: ' ' :: u)) =
      (named? binaryLines m.toList).bind fun f => (f v w).assemble := by
  obtain ⟨hplain, hmne⟩ := plain_mnemonic hm.1
  obtain ⟨htne, ht⟩ := number?_plain hv
  obtain ⟨hune, hu⟩ := number?_plain hw
  rw [assembleLine?_two hplain hmne ht htne hu hune, statement?, if_neg hm.2, operands?_two ht hu, hv, hw]
  exact Option.bind_map ..

end

/-! ### Each mnemonic stands in one table -/

theorem plainLines_only : ∀ m ∈ ["NOP", "GEN_LUT", "RENDER", "CLEAR_STATUS", "SOFT_RESET", "WAIT_IDLE", "RUN"],
    (m ∈ mnemonics ∧ m.toList ≠ "LOAD".toList) ∧
      named? unaryLines m.toList = none ∧ named? binaryLines m.toList = none := by decide

theorem unaryLines_only : ∀ m ∈ ["SET_MASK_STRENGTH", "SET_GAP_STRENGTH", "SET_WIDTH", "SET_HEIGHT", ".word"],
    (m ∈ mnemonics ∧ m.toList ≠ "LOAD".toList) ∧
      named? plainLines m.toList = none ∧ named? binaryLines m.toList = none := by decide

theorem binaryLines_only : ∀ m ∈ ["READ_LUT", "SET_DIMS", "CONFIG"],
    (m ∈ mnemonics ∧ m.toList ≠ "LOAD".toList) ∧
      named? plainLines m.toList = none ∧ named? unaryLines m.toList = none := by decide

/-- A line of only spaces stands for no command. -/
theorem assembleLine?_spaces {line : List Char} (h : ∀ ch ∈ line, ch = ' ') : assembleLine? line = some [] := by
  have hc : ';' ∉ line := fun hmem => absurd (h _ hmem) (by decide)
  have hb : trimBlanks line = [] := trimBlanks_blank fun ch hmem => by rw [h ch hmem]; rfl
  unfold assembleLine?
  rw [takeWhile_comment hc, hb]
  rfl

end Sys2Proof.Machine

open Sys2Proof Sys2Proof.Machine

/-- Settles O43: each mnemonic stands in one table, and the tables of the other counts have no row for it. -/
theorem assemblerReadsLines : Obligations.AssemblerReadsLines := by
  refine ⟨⟨?_, ?_, ?_, ?_, ?_, ?_, ?_⟩, ⟨?_, ?_, ?_, ?_, ?_, ?_, ?_, ?_⟩, fun t u v w hv hw => ?_,
    fun t hv hne ht m hmem => ?_, fun _ _ => assembleLine?_comment, fun _ => assembleLine?_spaces,
    fun _ rest h => ⟨assemble?_line h, assemble?_cons h rest⟩⟩
  iterate 7 exact (assembleLine?_plain (by decide)).trans rfl
  iterate 8 exact (assembleLine?_load (plain_of_all rfl) (by decide)).trans rfl
  · refine ⟨⟨?_, ?_, ?_, ?_, ?_⟩, ⟨?_, ?_, ?_⟩, fun m hmem => ?_, fun m hmem => ?_, fun m hmem => ?_, fun m hmem => ?_⟩
    iterate 5 exact (assembleLine?_unary (by decide) hv).trans rfl
    iterate 3 exact (assembleLine?_binary (by decide) hv hw).trans rfl
    · obtain ⟨hm, hunary, hbinary⟩ := plainLines_only m hmem
      exact ⟨(assembleLine?_unary hm hv).trans (by simp [hunary]),
        (assembleLine?_binary hm hv hw).trans (by simp [hbinary])⟩
    · obtain ⟨hm, hplain, hbinary⟩ := unaryLines_only m hmem
      exact ⟨(assembleLine?_plain hm).trans (by simp [hplain]),
        (assembleLine?_binary hm hv hw).trans (by simp [hbinary])⟩
    · obtain ⟨hm, hplain, hunary⟩ := binaryLines_only m hmem
      exact ⟨(assembleLine?_plain hm).trans (by simp [hplain]),
        (assembleLine?_unary hm hv).trans (by simp [hunary])⟩
    · obtain rfl := List.mem_singleton.1 hmem
      exact ⟨assembleLine?_load_bare, assembleLine?_load_number hv, assembleLine?_load_numbers hv hw⟩
  · obtain ⟨hm, -⟩ := unaryLines_only m hmem
    rw [assembleLine?_operand hm ht hne, hv, Option.bind_none]

end

section
/-! PROOF. A CMD write by the outcome of R78's checks: an idle block runs the command a well-formed word encodes, and a
rejected word records its code and does nothing else. The configuration commands are its first use. -/

namespace Sys2Proof

/-- An assigned opcode with a reserved bit set is rejected by that check, before the range (R76, R164). -/
theorem decodeWord_reserved {w : Word} {o : Op} (ho : opcField w = o.opc) (hr : w &&& o.format.reservedZeroMask ≠ 0#32) :
    decodeWord w = .error .reservedBits := by
  simp [decodeWord, ho, ofOpc_opc, hr]

/-- A word with a row's opcode that is not the encoding of its fields has a reserved bit set. -/
theorem reserved_of_ne_encode {w : Word} {o : Op} (ho : opcField w = o.opc) (hne : w ≠ encode (o.instr w)) :
    w &&& o.format.reservedZeroMask ≠ 0#32 :=
  fun hr => hne (encode_instr ho.symm hr).symm

end Sys2Proof

namespace Sys2Proof.Machine

/-- While BUSY a word of any opcode but SOFT_RESET's is rejected before it is decoded (R163). -/
theorem cmdWrite_busy {s : State} {w : Word} (hb : s.busy = true) (ho : opcField w ≠ Op.softReset.opc) :
    cmdWrite w s = .next (recordError .busyReject s) :=
  if_pos ⟨hb, ho⟩

/-- A word that passes the busy check and that the decoder rejects records the decoder's reason (R78). -/
theorem cmdWrite_error {s : State} {w : Word} {r : Reject} (hb : s.busy = true → opcField w = Op.softReset.opc)
    (hd : decodeWord w = .error r) : cmdWrite w s = .next (recordError (rejectCode r) s) := by
  rw [cmdWrite, if_neg fun h => h.2 (hb h.1), hd]

/-- On an idle block a word with an assigned opcode and a reserved bit set records RESERVED_BITS (R76). -/
theorem cmdWrite_reserved {s : State} {w : Word} {o : Op} (hb : s.busy = false) (ho : opcField w = o.opc)
    (hr : w &&& o.format.reservedZeroMask ≠ 0#32) : cmdWrite w s = .next (recordError .reservedBits s) :=
  cmdWrite_error (by simp [hb]) (decodeWord_reserved ho hr)

/-- What a well-formed command does is also what a CMD write of its word does. -/
theorem exec_and_cmdWrite {s : State} {i : Instr} {w : Word} {r : Result} (hwf : i.wf = true) (hw : encode i = w)
    (he : exec i s = r) : exec i s = r ∧ cmdWrite w s = r := by
  subst hw
  exact ⟨he, (cmdWrite_ok (decodeWord_encode hwf)).trans he⟩

/-! ### The SET commands on an idle block (R91 to R94) -/

theorem execSetMaskStrength_idle {s : State} (imm8 : BitVec 8) (h : s.busy = false) :
    execSetMaskStrength imm8 s = .next { s with maskStrength := imm8 } := whenIdle_idle _ h

theorem execSetGapStrength_idle {s : State} (imm8 : BitVec 8) (h : s.busy = false) :
    execSetGapStrength imm8 s = .next { s with gapStrength := imm8 } := whenIdle_idle _ h

theorem execSetWidth_idle {s : State} (imm16 : BitVec 16) (h : s.busy = false) :
    execSetWidth imm16 s = .next { s with width := imm16 } := whenIdle_idle _ h

theorem execSetHeight_idle {s : State} (imm16 : BitVec 16) (h : s.busy = false) :
    execSetHeight imm16 s = .next { s with height := imm16 } := whenIdle_idle _ h

end Sys2Proof.Machine

open Sys2Proof Sys2Proof.Machine

/-- Settles O9: on an idle block the only word with NOP's opcode and no reserved bit is NOP's own; on a busy one the
busy check comes first. -/
theorem nopLeavesEverything : Obligations.NopLeavesEverything := by
  intro s
  have hopc {w : Word} (h : w >>> 24 = 0x00#32) : opcField w = Op.nop.opc := (shiftRight_eq_iff w 0x00#8).1 h
  refine ⟨fun hb => ?_, fun hb => ⟨exec_busy hb (by decide), fun w hw => cmdWrite_busy hb ?_⟩⟩
  · obtain ⟨hexec, hword⟩ := exec_and_cmdWrite (i := .nop) rfl rfl (whenIdle_idle (s := s) _ hb)
    have hzero : 0x00000000#32 = encode .nop := rfl
    exact ⟨hexec, hword, fun w hw hne =>
      cmdWrite_reserved hb (hopc hw) (reserved_of_ne_encode (hopc hw) (hne.trans_eq hzero))⟩
  · rw [hopc hw]
    decide

/-- Settles O10: each SET command passes the busy check, and its word is its opcode word plus its operand. -/
theorem setCommandsLoadOneRegister : Obligations.SetCommandsLoadOneRegister := by
  intro s imm8 imm16 hb
  refine ⟨exec_and_cmdWrite rfl (encode_eq_add (.setMaskStrength imm8) _ ?_) (execSetMaskStrength_idle imm8 hb),
    exec_and_cmdWrite rfl (encode_eq_add (.setGapStrength imm8) _ ?_) (execSetGapStrength_idle imm8 hb),
    exec_and_cmdWrite rfl (encode_eq_add (.setWidth imm16) _ ?_) (execSetWidth_idle imm16 hb),
    exec_and_cmdWrite rfl (encode_eq_add (.setHeight imm16) _ ?_) (execSetHeight_idle imm16 hb)⟩
  iterate 4 simp [Instr.op, Op.opc]

end

section
/-! PROOF. The mask-table generator: each cell by its kind, and each channel of it as a number; from these the listed
properties of the tile. -/

namespace Sys2Proof

/-- A Pixel whose three channels all hold `v`. -/
theorem Pixel.eq_of_forall_ch {p : Pixel} {v : Byte} (h : ∀ k, (p.ch k).toNat = v.toNat) : p = ⟨v, v, v⟩ :=
  Pixel.ext_ch fun k => (BitVec.eq_of_toNat_eq (h k)).trans (by fin_cases k <;> rfl)

end Sys2Proof

namespace Sys2Proof.Machine

/-! ### The kinds of cell (R105) and the active channel (R102) -/

theorem cellKind_eq_accent_iff : ∀ (r : TileRow) (c : TileCol), cellKind r c = .accent ↔
    r.val = 0 ∨ r.val = 2 ∨ r.val = 4 ∨ r.val = 6 ∨
      ((r.val = 1 ∨ r.val = 5) ∧ c.val ≤ 2) ∨ ((r.val = 3 ∨ r.val = 7) ∧ 3 ≤ c.val) := by
  decide

theorem cellKind_ne_accent_iff {r : TileRow} {c : TileCol} : cellKind r c ≠ .accent ↔ cellKind r c = .gapBlend := by
  cases cellKind r c <;> simp

/-- R105's table repeats after four rows. -/
theorem cellKind_four_below :
    ∀ (r r' : TileRow) (c : TileCol), r'.val = r.val + 4 → cellKind r c = cellKind r' c := by
  decide

theorem eq_accentChannel_iff {k : Channel} {c : TileCol} : k = accentChannel c ↔ k.val = c.val % 3 := Fin.ext_iff

/-- At the normative GAP_PHASE of 0 both kinds of cell have the same active channel. -/
theorem gapChannel_params (c : TileCol) : gapChannel params c = accentChannel c := rfl

/-! ### Cells and channels of the generated tile (R103 to R106) -/

theorem genTile_cell_accent (mask gap : Byte) {r : TileRow} {c : TileCol} (h : cellKind r c = .accent) :
    (genTile params mask gap).cell r c = accentCell mask.toNat c := by
  rw [genTile_cell, h]

theorem genTile_cell_gapBlend (mask gap : Byte) {r : TileRow} {c : TileCol} (h : cellKind r c = .gapBlend) :
    (genTile params mask gap).cell r c = gapCell params mask.toNat gap.toNat c := by
  rw [genTile_cell, h]

theorem genTile_ch_accent (mask gap : Byte) {r : TileRow} {c : TileCol} (h : cellKind r c = .accent) (k : Channel) :
    (((genTile params mask gap).cell r c).ch k).toNat = if k.val = c.val % 3 then 255 else mask.toNat := by
  simp only [genTile_cell_accent mask gap h, accentCell_ch, eq_accentChannel_iff]

theorem genTile_ch_gapBlend (mask gap : Byte) {r : TileRow} {c : TileCol} (h : cellKind r c = .gapBlend) (k : Channel) :
    (((genTile params mask gap).cell r c).ch k).toNat =
      if k.val = c.val % 3 then 255 - gap.toNat else mask.toNat - gap.toNat := by
  simp only [genTile_cell_gapBlend mask gap h, gapCell_ch, gapChannel_params, eq_accentChannel_iff, gapHigh, gapLow,
    satSub_eq]

/-! ### Special strengths (R111) -/

/-- With strengths 255 and 0 every cell is white. -/
theorem genTile_white (r : TileRow) (c : TileCol) : (genTile params 255 0).cell r c = ⟨255, 255, 255⟩ := by
  refine Pixel.eq_of_forall_ch fun k => ?_
  cases h : cellKind r c with
  | accent => exact (genTile_ch_accent _ _ h k).trans (ite_self _)
  | gapBlend => exact (genTile_ch_gapBlend _ _ h k).trans (ite_self _)

/-- With gap_strength 255 a gap-blend cell is black: no channel exceeds 255. -/
theorem genTile_gapBlend_black (mask : Byte) {r : TileRow} {c : TileCol} (h : cellKind r c = .gapBlend) :
    (genTile params mask 255).cell r c = ⟨0, 0, 0⟩ := by
  refine Pixel.eq_of_forall_ch fun k => (genTile_ch_gapBlend _ _ h k).trans ?_
  have hlow : mask.toNat - (255 : Byte).toNat = 0 := Nat.sub_eq_zero_of_le (Nat.le_of_lt_succ mask.isLt)
  rw [hlow]
  exact ite_self _

/-- A gap_strength of at least mask_strength leaves nothing of a gap-blend cell's inactive channels. -/
theorem genTile_gapBlend_inactive {mask gap : Byte} (hle : mask.toNat ≤ gap.toNat) {r : TileRow} {c : TileCol}
    (h : cellKind r c = .gapBlend) {k : Channel} (hk : k.val ≠ c.val % 3) :
    ((genTile params mask gap).cell r c).ch k = 0 := by
  apply BitVec.eq_of_toNat_eq
  rw [genTile_ch_gapBlend _ _ h, if_neg hk, Nat.sub_eq_zero_of_le hle]
  rfl

/-- Rows 4 to 7 repeat rows 0 to 3. -/
theorem genTile_four_below (mask gap : Byte) {r r' : TileRow} (h : r'.val = r.val + 4) (c : TileCol) :
    (genTile params mask gap).cell r c = (genTile params mask gap).cell r' c := by
  simp only [genTile_cell, cellKind_four_below r r' c h]

end Sys2Proof.Machine

open Sys2Proof Sys2Proof.Machine

/-- Settles O20: each kind of cell has its channels as numbers, and R105's table says which kind a cell is. -/
theorem generatedTileCells : Obligations.GeneratedTileCells := by
  intro mask gap r c k accent active
  by_cases h : accent
  · rw [if_pos h]
    exact genTile_ch_accent mask gap ((cellKind_eq_accent_iff r c).2 h) k
  · have hkind := cellKind_ne_accent_iff.1 (mt (cellKind_eq_accent_iff r c).1 h)
    rw [if_neg h, genTile_ch_gapBlend mask gap hkind k]
    refine if_congr Iff.rfl rfl ?_
    exact (satSub_eq mask.toNat gap.toNat).symm

/-- Settles O21: the five properties, the first half of row 3 being the second one's case. -/
theorem generatedTileProperties : Obligations.GeneratedTileProperties := by
  refine ⟨genTile_white, fun mask _ _ h => genTile_gapBlend_black mask h,
    fun _ _ _ _ _ hle h hk => genTile_gapBlend_inactive hle h hk, ⟨?_, ?_, ?_, ?_, ?_, ?_⟩,
    fun mask gap _ _ c h => genTile_four_below mask gap h c⟩
  iterate 3 exact genTile_gapBlend_black 0 rfl
  iterate 3 exact (genTile_cell_accent 0 255 rfl).trans rfl

end

section
/-! PROOF. GEN_LUT and READ_LUT as commands and as CMD words, and where TILE is loaded. -/

namespace Sys2Proof

/-- A Pixel's packing as R11's sum. -/
theorem pack_eq_ofNat (p : Pixel) : p.pack = BitVec.ofNat 32 (p.r.toNat + 256 * p.g.toNat + 65536 * p.b.toNat) := by
  rw [← pack_toNat, BitVec.ofNat_toNat, BitVec.setWidth_eq]

/-- Bits [31:24] of a packed Pixel are 0 (R11). -/
theorem pack_lt (p : Pixel) : p.pack.toNat < 2 ^ 24 := by
  have hr := p.r.isLt
  have hg := p.g.isLt
  have hb := p.b.isLt
  rw [pack_toNat]
  omega

/-- An encoded command whose operand is out of range passes the checks before and fails that one (R77, R164). -/
theorem decodeWord_encode_range {i : Instr} (hwf : i.wf = false) : decodeWord (encode i) = .error .range := by
  obtain ⟨hopc, hreserved, -, hoperands⟩ := encodedFields i
  simp [decodeWord, hopc, ofOpc_opc, hreserved, hoperands, hwf]

/-- Only SOFT_RESET has SOFT_RESET's opcode (R74). -/
theorem op_opc_ne_softReset {i : Instr} (hi : i ≠ .softReset) : i.op.opc ≠ Op.softReset.opc := by
  cases i with
  | softReset => exact absurd rfl hi
  | _ => simp [Instr.op, Op.opc]

end Sys2Proof

namespace Sys2Proof.Machine

/-- While BUSY every command but SOFT_RESET is rejected, and so is every word with its opcode (R163). -/
theorem exec_and_cmdWrite_busy {s : State} {i : Instr} (hb : s.busy = true) (hi : i ≠ .softReset) :
    exec i s = .next (recordError .busyReject s) ∧
      ∀ w : Word, w >>> 24 = i.op.opc.setWidth 32 → cmdWrite w s = .next (recordError .busyReject s) := by
  refine ⟨exec_busy hb hi, fun w hw => cmdWrite_busy hb ?_⟩
  rw [(shiftRight_eq_iff w _).1 hw]
  exact op_opc_ne_softReset hi

theorem execGenLut_idle {s : State} (h : s.busy = false) : execGenLut s = .next (loadTile params s) :=
  whenIdle_idle _ h

theorem rowOperand_eq (row : BitVec 3) : rowOperand row = ⟨row.toNat, row.isLt⟩ := Fin.ext (rowOperand_val row)

/-! ### TILE (R108) -/

/-- After a reset TILE is generated from the reset configuration (R107, R180). -/
theorem resetBlock_tile (c : Config) (s : State) :
    (resetBlock c s).tile = genTile params (resetBlock c s).maskStrength (resetBlock c s).gapStrength := by
  rw [resetBlock_registers]
  rfl

@[simp] theorem regRead_tile (r : Reg) (s : State) : (regRead r s).tile = s.tile := by
  obtain ⟨v, n, h⟩ := regRead_eq r s
  rw [h]

/-- What each command does to TILE: GEN_LUT, RENDER and SOFT_RESET load it, no other touches it (R108). -/
theorem Ran.tile {s t : State} {i : Instr} (hran : Ran s i t) :
    t.tile = s.tile ∨
    (t.tile = genTile params t.maskStrength t.gapStrength ∧ (i = .genLut ∨ i = .render ∨ i = .softReset)) := by
  cases hran with
  | genLut => exact .inr ⟨rfl, .inl rfl⟩
  | renderEmpty _ => exact .inr ⟨rfl, .inr (.inl rfl)⟩
  | renderStart _ _ => exact .inr ⟨rfl, .inr (.inl rfl)⟩
  | softReset => exact .inr ⟨resetBlock_tile _ _, .inr (.inr rfl)⟩
  | _ => exact .inl rfl

end Sys2Proof.Machine

open Sys2Proof Sys2Proof.Machine

/-- Settles O11: GEN_LUT is `loadTile`, which a second one repeats; its only word without a reserved bit is its own. -/
theorem genLutReloadsTile : Obligations.GenLutReloadsTile := by
  intro s recorded t
  refine ⟨fun hb => ?_, fun hb => exec_and_cmdWrite_busy (i := .genLut) hb (by decide)⟩
  obtain ⟨hexec, hword⟩ := exec_and_cmdWrite (i := .genLut) rfl rfl (execGenLut_idle hb)
  refine ⟨hexec, hword, execGenLut_idle (s := t) hb, fun hmask hgap r c => ?_, fun w hw hne => ?_⟩
  · have htile : t.tile = genTile params s.maskStrength s.gapStrength := rfl
    rw [htile, hmask, hgap, genTile_white]
  · have hopc : opcField w = Op.genLut.opc := (shiftRight_eq_iff w 0x10#8).1 hw
    have hown : 0x10000000#32 = encode .genLut := rfl
    exact cmdWrite_reserved hb hopc (reserved_of_ne_encode hopc (hne.trans_eq hown))

/-- Settles O12: a legal COL selects the cell that is packed, and one of 6 or 7 fails the decoder's range check as it
fails READ_LUT's own. -/
theorem readLutDeliversCell : Obligations.ReadLutDeliversCell := by
  intro s row col recorded word
  have hword : encode (.readLut row col) = word := encode_readLut row col
  refine ⟨fun hb => ⟨fun hcol => ?_, fun hcol => ?_, fun w hw hr => ?_⟩,
    fun hb => exec_and_cmdWrite_busy (i := .readLut row col) hb (by simp)⟩
  · intro cell t
    have hexec : exec (.readLut row col) s = .next t := by
      rw [exec, execReadLut_idle row col hb hcol, rowOperand_eq, pack_eq_ofNat]
    obtain ⟨_, hwrite⟩ := exec_and_cmdWrite (i := .readLut row col) (decide_eq_true hcol) hword hexec
    have hlt := pack_lt cell
    rw [pack_eq_ofNat] at hlt
    exact ⟨hexec, hwrite, hlt⟩
  · have hrange : ¬col.toNat < tileCols := Nat.not_lt.2 hcol
    have hdecode : decodeWord word = .error .range := hword ▸ decodeWord_encode_range (decide_eq_false hrange)
    exact ⟨execReadLut_range row col hb hrange, cmdWrite_error (by simp [hb]) hdecode⟩
  · exact cmdWrite_reserved (o := .readLut) hb ((shiftRight_eq_iff w 0x11#8).1 hw) hr

/-- Settles O37: of all moves only the three loading commands and the reset input change TILE. -/
theorem tileChangesOnlyByLoadTile : Obligations.TileChangesOnlyByLoadTile := by
  intro s t hstep
  cases step_cases hstep with
  | command ag addr data w i _ hh hr hw hd hb he =>
    have hword := writesCommand_encode hh hr hw hd
    have hran := exec_ran (s := { s with agenda := ag }) hb he
    rcases hran.tile with hsame | ⟨hload, rfl | rfl | rfl⟩
    · exact .inl hsame
    · exact .inr ⟨hload, .inl hword⟩
    · exact .inr ⟨hload, .inr (.inl hword)⟩
    · exact .inr ⟨hload, .inr (.inr (.inl hword))⟩
  | reset ag hh => exact .inr ⟨resetBlock_tile _ _, .inr (.inr (.inr ⟨ag, hh⟩))⟩
  | engine ag _ => exact .inl (engineStep_sameSetting _).tile
  | read ag r => exact .inl (regRead_tile _ _)
  | _ => exact .inl rfl

end

section
/-! PROOF. The datapath as exact arithmetic on naturals, channel by channel, and the special values that follow. -/

namespace Sys2Proof.Machine

/-! ### The stages as numbers (R120, R121, R123) -/

theorem blur_eq (i : Sub) (cur prv : Nat) :
    blur i cur prv = if i.val = 0 then (cur + prv) / 2 else if i.val = 1 then (3 * cur + prv) / 4 else cur := by
  fin_cases i <;> rfl

theorem gap_params_eq (j : Sub) (v : Nat) :
    gap params j v = if j.val = 0 then v - 60 else if j.val = 3 then v - 120 else v := by
  fin_cases j <;> simp [gap, satSub_eq, params]

theorem boost_params_eq (v m : Nat) : boost params v m = min ((v + v / 8) * m / 200) 255 := rfl

/-! ### Black -/

/-- What the scanline gap darkens to 0 stays 0 (R123). -/
theorem subPixel_ch_eq_zero {i j : Sub} {cur prv : Pixel} {k : Channel}
    (h : gap params j (blur i (cur.ch k).toNat (prv.ch k).toNat) = 0) (cell : Pixel) :
    (subPixel params i j cur prv cell).ch k = 0 := by
  apply BitVec.eq_of_toNat_eq
  rw [subPixel_ch, subChannel, h, boost_params_eq]
  simp

theorem gap_blur_zero (i j : Sub) : gap params j (blur i 0 0) = 0 := by
  have hblur : blur i 0 0 = 0 := by simp [blur_eq]
  rw [hblur]
  exact Nat.le_zero.1 (gap_le params j 0)

theorem gap_bottom_eq_zero {v : Nat} (h : v ≤ 120) : gap params 3 v = 0 :=
  (gap_params_eq 3 v).trans (Nat.sub_eq_zero_of_le h)

theorem gap_top_eq_zero {v : Nat} (h : v ≤ 60) : gap params 0 v = 0 :=
  (gap_params_eq 0 v).trans (Nat.sub_eq_zero_of_le h)

/-- A channel that is 0 in the pixel and in its left neighbour is 0 in every sub-pixel (R137). -/
theorem subPixel_ch_of_zero {cur prv : Pixel} {k : Channel} (hcur : cur.ch k = 0) (hprv : prv.ch k = 0) (i j : Sub)
    (cell : Pixel) : (subPixel params i j cur prv cell).ch k = 0 := by
  refine subPixel_ch_eq_zero ?_ cell
  rw [hcur, hprv]
  exact gap_blur_zero i j

/-! ### Saturation -/

theorem boost_saturates {v m : Nat} (h : 51000 ≤ (v + v / 8) * m) : boost params v m = 255 :=
  min_eq_right ((Nat.le_div_iff_mul_le (by decide)).2 h)

end Sys2Proof.Machine

open Sys2Proof Sys2Proof.Machine

/-- Settles O22: each stage as a number, and each bound from the one before. -/
theorem subPixelIsExactArithmetic : Obligations.SubPixelIsExactArithmetic := by
  intro i j cur prv cell k x y m blurred gapped b
  have hx : x ≤ 255 := Nat.le_of_lt_succ (cur.ch k).isLt
  have hy : y ≤ 255 := Nat.le_of_lt_succ (prv.ch k).isLt
  have hm : m ≤ 255 := Nat.le_of_lt_succ (cell.ch k).isLt
  have eblurred : blur i x y = blurred := blur_eq i x y
  have egapped : gap params j blurred = gapped := gap_params_eq j blurred
  have hblurred : blurred ≤ 255 := eblurred ▸ blur_le i hx hy
  have hgapped : gapped ≤ 255 := (egapped ▸ gap_le params j blurred).trans hblurred
  have hb : b ≤ 286 := Nat.add_le_add hgapped (Nat.div_le_div_right hgapped)
  have hbm : b * m ≤ 72930 := Nat.mul_le_mul hb hm
  refine ⟨Nat.add_le_add hx hy, Nat.add_le_add (Nat.mul_le_mul_left 3 hx) hy, hblurred, hgapped, hb, hbm,
    Nat.div_le_div_right hbm, ?_⟩
  rw [subPixel_ch, subChannel, eblurred, egapped]
  exact boost_params_eq gapped m

/-- Settles O23: in each of the dark cases the gap stage already gives 0. -/
theorem specialPixelValues : Obligations.SpecialPixelValues :=
  ⟨fun i j _ _ cell _ hcur hprv => subPixel_ch_of_zero hcur hprv i j cell,
    fun i j cell => Pixel.ext_ch fun k =>
      (subPixel_ch_of_zero (black_ch k) (black_ch k) i j cell).trans (black_ch k).symm,
    fun _ => rfl,
    fun _ _ _ cell _ h => subPixel_ch_eq_zero (gap_bottom_eq_zero h) cell,
    fun _ _ _ cell _ h => subPixel_ch_eq_zero (gap_top_eq_zero h) cell,
    fun _ _ h => boost_saturates h⟩

end

section
/-! PROOF. RENDER's start actions, and one engine step for each way the sequencer moves on. -/

namespace Sys2Proof.Machine

/-! ### The pixels a step computes from -/

theorem prevNow_eq_ite (s : State) :
    s.prevNow = if (s.si.val = 0 ∧ s.sj.val = 0) ∧ s.sx.toNat = 0 then black else s.prev :=
  if_congr (by simp [and_assoc, ← BitVec.toNat_inj]) rfl rfl

theorem curPixNow_eq_ite (s : State) :
    s.curPixNow = if s.si.val = 0 ∧ s.sj.val = 0 then s.srcRead s.sx.toNat s.sy.toNat else s.curPix :=
  if_congr (by simp) rfl rfl

/-- Past its first sub-pixel a source pixel is not latched again (R129). -/
theorem curPixNow_of_si {s : State} (hi : s.si.val = 3) : s.curPixNow = s.curPix := by
  rw [curPixNow_eq_ite, if_neg fun h => by omega]

/-! ### The engine's step, case by case (R131) -/

theorem engineStep_subColumn {s : State} (hi : s.si.val < 3) :
    engineStep params s = { s.emitted with curCol := nextCol s.curCol, si := Fin.ofNat scale (s.si.val + 1) } := by
  rcases engineStep_cases s with ⟨_, h⟩ | h | h | h | h
  · exact h
  all_goals omega

theorem engineStep_subRow {s : State} (hi : s.si.val = 3) (hj : s.sj.val < 3) :
    engineStep params s =
      { s.emitted with
        curCol := nextCol s.curCol, si := 0, curRow := nextRow s.curRow, sj := Fin.ofNat scale (s.sj.val + 1) } := by
  rcases engineStep_cases s with h | ⟨_, _, h⟩ | h | h | h
  · omega
  · exact h
  all_goals omega

theorem engineStep_column {s : State} (hi : s.si.val = 3) (hj : s.sj.val = 3) (hx : s.sx.toNat + 1 < s.width.toNat) :
    engineStep params s =
      { s.emitted with
        curCol := nextCol s.curCol, si := 0, curRow := nextRow s.curRow, sj := 0, prev := s.curPixNow
        sx := s.sx + 1 } := by
  rw [curPixNow_of_si hi]
  rcases engineStep_cases s with h | h | ⟨_, _, _, h⟩ | h | h
  · omega
  · omega
  · exact h
  all_goals omega

theorem engineStep_row {s : State} (hi : s.si.val = 3) (hj : s.sj.val = 3) (hx : s.width.toNat ≤ s.sx.toNat + 1)
    (hy : s.sy.toNat + 1 ≠ s.height.toNat) :
    engineStep params s =
      { s.emitted with
        curCol := nextCol s.curCol, si := 0, curRow := nextRow s.curRow, sj := 0, prev := s.curPixNow
        sx := 0, sy := s.sy + 1 } := by
  rw [curPixNow_of_si hi]
  rcases engineStep_cases s with h | h | h | ⟨_, _, _, _, h⟩ | h
  iterate 3 omega
  · exact h
  · omega

theorem engineStep_last {s : State} (hi : s.si.val = 3) (hj : s.sj.val = 3) (hx : s.width.toNat ≤ s.sx.toNat + 1)
    (hy : s.sy.toNat + 1 = s.height.toNat) :
    engineStep params s =
      { s.emitted with
        curCol := nextCol s.curCol, si := 0, curRow := nextRow s.curRow, sj := 0, prev := s.curPixNow
        sx := 0, sy := s.height, busy := false, done := true, dstBefore := [] } := by
  have hsy : s.sy + 1 = s.height := BitVec.eq_of_toNat_eq ((add1_toNat (w := s.height) (by omega)).trans hy)
  rw [curPixNow_of_si hi, ← hsy]
  rcases engineStep_cases s with h | h | h | h | ⟨_, _, _, _, h⟩
  iterate 4 omega
  exact h

/-- The next sub-row or sub-column does not wrap before the fourth. -/
theorem nextSub_val {i : Sub} (h : i.val < 3) : (Fin.ofNat scale (i.val + 1)).val = i.val + 1 :=
  Nat.mod_eq_of_lt (Nat.succ_lt_succ h)

end Sys2Proof.Machine

open Sys2Proof Sys2Proof.Machine

/-- Settles O13: RENDER's word is the encoding of RENDER, whose start actions `execRender_start` names. -/
theorem renderStartsEngine : Obligations.RenderStartsEngine := by
  intro s hs hw hh haw hah t
  have hall : s.dstAllocated = true := by simp [State.dstAllocated, haw, hah]
  exact exec_and_cmdWrite (i := .render) rfl rfl (execRender_start hs (not_or.2 ⟨hw, hh⟩) hall)

/-- Settles O14: the empty image is RENDER's first case, before the launch premise is asked for. -/
theorem renderOfEmptyImageCompletesAtOnce : Obligations.RenderOfEmptyImageCompletesAtOnce := by
  intro s hs hempty t
  exact exec_and_cmdWrite (i := .render) rfl rfl (execRender_empty hs hempty)

/-- Settles O24: each way the sequencer moves on has its equation for the whole next state. -/
theorem engineStepFollowsPseudocode : Obligations.EngineStepFollowsPseudocode := by
  intro s rest hag
  have hstep := step_engine hag
  refine ⟨fun hs => ?_, fun hs => ?_⟩
  · rw [hstep, engineTurn, if_neg (by simp [hs])]
  intro first prev cur out target col row
  let u : State := { s with agenda := rest }
  have hprev : u.prevNow = prev := prevNow_eq_ite u
  have hcur : u.curPixNow = cur := curPixNow_eq_ite u
  have hout : u.outPixel = out := congrArg₂ (fun c p => subPixel params s.si s.sj c p u.cell) hcur hprev
  clear_value prev cur
  subst hprev hcur
  refine ⟨engineStep params u, ?_, fun a => ?_, fun hi => ?_, fun hi hj => ?_, fun hi hj hx => ?_,
    fun hi hj hx hy => ?_, fun hi hj hx hy => ?_⟩
  · rw [hstep, engineTurn, if_pos hs]
  · rw [engineStep_dst, lookup_insert, hout]
    rfl
  · rw [engineStep_subColumn (s := u) hi]
    exact ⟨rfl, nextSub_val hi⟩
  · rw [engineStep_subRow (s := u) hi hj]
    exact ⟨rfl, nextSub_val hj⟩
  · rw [engineStep_column (s := u) hi hj hx]
    exact ⟨rfl, add1_toNat (Nat.lt_of_succ_lt hx)⟩
  · rw [engineStep_row (s := u) hi hj hx hy]
    rfl
  · rw [engineStep_last (s := u) hi hj hx hy]
    rfl

end

section
/-! PROOF. A whole render: what its last step leaves, where it stands at each source pixel, and what it depends on. -/

namespace Sys2Proof.Machine

/-! ### The end of a render -/

/-- What a running render, left alone from `s`, has left when it completes in `t` (R132, R133). -/
structure Completed (s t : State) : Prop where
  same : SameSetting s t
  busy : t.busy = false
  done : t.done = true
  sx : t.sx = 0
  sy : t.sy = s.height
  sj : t.sj = 0
  si : t.si = 0
  prev : t.prev = s.srcRead (s.width.toNat - 1) (s.height.toNat - 1)
  curPix : t.curPix = s.srcRead (s.width.toNat - 1) (s.height.toNat - 1)
  curRow : t.curRow.val = (4 * s.width.toNat * s.height.toNat) % 8
  curCol : t.curCol.val = (4 * s.width.toNat * s.height.toNat) % 6
  image : ∀ a : Coord,
    t.dst.lookup a = if s.inRegion a = true then some (s.rendered params a) else s.dstBefore.lookup a

theorem inRegion_iff (s : State) (a : Coord) :
    s.inRegion a = true ↔ a.x < 4 * s.width.toNat ∧ a.y < 4 * s.height.toNat :=
  Coord.inside_iff _ _ _

/-- After the last write the whole region holds its rendered values. -/
theorem lastStep_lookup {s : State} (R : Rendering s)
    (hlast : s.stepsTaken + 1 = 16 * s.width.toNat * s.height.toNat) (a : Coord) :
    (engineStep params s).dst.lookup a =
      if s.inRegion a = true then some (s.rendered params a) else s.dstBefore.lookup a := by
  rw [step_lookup R a, hlast]
  refine if_congr (and_iff_left_of_imp fun hr => ?_) rfl rfl
  obtain ⟨hx, hy⟩ := (inRegion_iff s a).1 hr
  exact writeIndex_lt hx hy

/-- A render with one step left completes with it: a further step would be one too many. -/
theorem engineStep_completed {s : State} (hb : s.busy = true) (R : Rendering s)
    (hlast : s.stepsTaken + 1 = 16 * s.width.toNat * s.height.toNat) : Completed s (engineStep params s) := by
  have same := engineStep_sameSetting s
  rcases engineStep_rendering hb R with ⟨_, R', hsteps, _⟩ | E
  · have hlt := stepsTaken_lt R'
    rw [hsteps, same.width, same.height, hlast] at hlt
    exact absurd hlt (Nat.lt_irrefl _)
  · have hprev := E.prev
    have hcurPix := E.curPix
    rw [E.atLastColumn, E.atLastRow] at hprev hcurPix
    exact {
      same := same
      busy := E.busy
      done := E.done
      sx := E.sx
      sy := E.sy
      sj := E.sj
      si := E.si
      prev := hprev
      curPix := hcurPix
      curRow := E.curRow
      curCol := E.curCol
      image := lastStep_lookup R hlast }

/-- What a render leaves is fixed by what its steps do not change, so it may be told from any earlier one of its
states. -/
theorem Completed.of_earlier {s u t : State} (C : Completed u t) (same : SameSetting s u)
    (hbefore : u.dstBefore = s.dstBefore) : Completed s t := by
  have hread : ∀ x y, u.srcRead x y = s.srcRead x y := fun x y => by simp only [State.srcRead, same.src]
  have hrendered := rendered_eq same.maskStrength same.gapStrength same.width same.src
  obtain ⟨hsame, hb, hd, hsx, hsy, hsj, hsi, hprev, hcurPix, hrow, hcol, himage⟩ := C
  simp only [State.inRegion, hrendered, hread, hbefore, same.width, same.height] at hsy hprev hcurPix hrow hcol himage
  exact ⟨same.trans hsame, hb, hd, hsx, hsy, hsj, hsi, hprev, hcurPix, hrow, hcol, himage⟩

/-- A running render left alone completes after exactly the steps it has not yet taken. -/
theorem run_completed {s : State} (R : Rendering s) (hb : s.busy = true) (ha : s.agenda = []) :
    ∃ t : State, Host.Core.run core (16 * s.width.toNat * s.height.toNat - s.stepsTaken) s = .next t ∧
      Completed s t := by
  have hlt := stepsTaken_lt R
  obtain ⟨n, hn⟩ : ∃ n, 16 * s.width.toNat * s.height.toNat - s.stepsTaken = n + 1 :=
    ⟨_, (Nat.succ_pred_eq_of_pos (Nat.sub_pos_of_lt hlt)).symm⟩
  obtain ⟨u, hrun, hub, uR, hsteps, same, hbefore⟩ := run_engine R hb ha n (by omega)
  have hlast : u.stepsTaken + 1 = 16 * u.width.toNat * u.height.toNat := by
    rw [same.width, same.height]
    omega
  rw [hn]
  exact ⟨_, (run_add n 1 s u hrun).trans (run_one u _ (step_drained (same.agenda.trans ha) hub)),
    (engineStep_completed hub uR hlast).of_earlier same hbefore⟩

/-- An idle block with no event left repeats its state (R174). -/
theorem run_idle {s : State} (ha : s.agenda = []) (hb : s.busy = false) (n : Nat) :
    Host.Core.run core n s = .next s := by
  induction n with
  | zero => rfl
  | succ n ih =>
    rw [Nat.add_comm]
    exact (run_add 1 n s s (run_one s s (step_idle ha hb))).trans ih

/-! ### A launched render -/

theorem stepsTaken_launched (s : State) : s.launched.stepsTaken = 0 := by
  simp [State.stepsTaken, State.launched]

/-- A launched render completes with its `16 * WIDTH * HEIGHT`-th step (R132). -/
theorem Launch.completes {s : State} (L : Launch s) :
    ∃ t : State, Host.Core.run core (1 + 16 * s.width.toNat * s.height.toNat) s = .next t ∧
      Completed s.launched t := by
  obtain ⟨t, hrun, C⟩ := run_completed L.rendering rfl rfl
  rw [stepsTaken_launched, Nat.sub_zero] at hrun
  exact ⟨t, (run_add 1 _ s _ (run_one _ _ L.step_eq)).trans hrun, C⟩

/-- Where a launched render stands when it comes to its `n`-th source pixel (R134). -/
theorem Launch.at_sourcePixel {s : State} (L : Launch s) {n : Nat} (hn : n < s.width.toNat * s.height.toNat) :
    ∃ u : State, Host.Core.run core (1 + 16 * n) s = .next u ∧ u.busy = true ∧
      u.si = 0 ∧ u.sj = 0 ∧ u.sx.toNat = n % s.width.toNat ∧ u.sy.toNat = n / s.width.toNat ∧
      u.curRow.val = 4 * n % 8 ∧ u.curCol.val = 16 * n % 6 := by
  have hlt : 16 * n < 16 * s.width.toNat * s.height.toNat := by
    rw [Nat.mul_assoc]
    exact Nat.mul_lt_mul_of_pos_left hn (by decide)
  obtain ⟨u, hrun, hb, R, hsteps, same, -⟩ := L.runs hlt
  obtain ⟨hi, hj, hx, hy⟩ := position_of_stepsTaken R _ hsteps
  have hi0 : u.si.val = 0 := by omega
  have hj0 : u.sj.val = 0 := by omega
  have hplace : u.sy.toNat * u.width.toNat + u.sx.toNat = n := by
    unfold State.stepsTaken at hsteps
    omega
  have hw : u.width = s.width := same.width
  have h16 : 16 * n / 16 = n := Nat.mul_div_cancel_left n (by decide)
  rw [h16, hw] at hx hy
  refine ⟨u, hrun, hb, Fin.ext hi0, Fin.ext hj0, hx, hy, ?_, ?_⟩
  · rw [curRow_val R, hplace, hj0]
    rfl
  · rw [curCol_val R, hplace, hi0, hj0]
    rfl

/-! ### What the closed form reads (R133, R136) -/

/-- Taking a destination coordinate's sub-column or sub-row as a `Sub` loses nothing (R14). -/
theorem ofNat_mod_scale (v : Nat) : Fin.ofNat scale (v % scale) = ⟨v % 4, Nat.mod_lt _ (by decide)⟩ :=
  Fin.ext (Nat.mod_mod v 4)

/-- Inside the region a rendered pixel depends on the width, the strengths and the source pixels inside the image. -/
theorem rendered_congr {s t : State} (hm : t.maskStrength = s.maskStrength) (hg : t.gapStrength = s.gapStrength)
    (hw : t.width = s.width)
    (hsrc : ∀ x y : Nat, x < s.width.toNat → y < s.height.toNat → t.srcRead x y = s.srcRead x y)
    {a : Coord} (ha : s.inRegion a = true) : t.rendered params a = s.rendered params a := by
  obtain ⟨hx, hy⟩ := (inRegion_iff s a).1 ha
  have hcur := hsrc (a.x / 4) (a.y / 4) (by omega) (by omega)
  have hleft := hsrc (a.x / 4 - 1) (a.y / 4) (by omega) (by omega)
  simp only [State.rendered, State.leftOf, scale, hm, hg, hw, hcur, hleft]

end Sys2Proof.Machine

open Sys2Proof Sys2Proof.Machine

/-- Settles O25: before its last step the render is running, and with it the block is idle and has no event left. -/
theorem renderCompletes : Obligations.RenderCompletes := by
  intro s hs hw hh haw hah hag steps
  have L : Launch s := ⟨hs, hw, hh, haw, hah, hag⟩
  refine ⟨fun n hn => ?_, ?_⟩
  · obtain ⟨u, hrun, hb, -⟩ := L.runs hn
    exact ⟨u, hrun, hb⟩
  · obtain ⟨t, hrun, C⟩ := L.completes
    exact ⟨t, fun n => (run_add _ n s t hrun).trans (run_idle C.same.agenda C.busy n), C.busy, C.done, C.sx, C.sy, C.sj,
      C.si, C.prev, C.curRow, C.curCol⟩

/-- Settles O26: `State.rendered` is the closed form the statement writes out. -/
theorem renderedImageIsClosedForm : Obligations.RenderedImageIsClosedForm := by
  intro s hs hw hh haw hah hag
  have L : Launch s := ⟨hs, hw, hh, haw, hah, hag⟩
  obtain ⟨t, hrun, C⟩ := L.completes
  refine ⟨t, hrun, fun X Y hX hY => ?_, fun a ha => ?_⟩
  · rw [C.image, if_pos ((inRegion_iff _ _).2 ⟨hX, hY⟩), State.rendered, ofNat_mod_scale, ofNat_mod_scale]
    rfl
  · exact (C.image a).trans (if_neg (mt (inRegion_iff _ _).1 ha))

/-- Settles O27: the cursor at both source pixels is the closed form at its place in raster order. -/
theorem cursorRunsWithoutReset : Obligations.CursorRunsWithoutReset := by
  intro s hs hw hh haw hah hag n hn
  have L : Launch s := ⟨hs, hw, hh, haw, hah, hag⟩
  obtain ⟨u, hrun, hb, hi, hj, hx, hy, hrow, hcol⟩ := L.at_sourcePixel hn
  refine ⟨u, hrun, hb, hi, hj, hx, hy, hrow, hcol, by omega, fun hnext => ?_⟩
  obtain ⟨v, hrun', -, -, -, -, -, hrow', hcol'⟩ := L.at_sourcePixel hnext
  exact ⟨v, hrun', by omega, by omega⟩

/-- Settles O29: what a completed render leaves is said in terms of the dimensions, the strengths and source pixels
inside the image. -/
theorem renderDependsOnItsInputsAlone : Obligations.RenderDependsOnItsInputsAlone := by
  intro s s' hs hw hh haw hah hag hs' haw' hah' hag' ew eh em eg hsrc
  have L : Launch s := ⟨hs, hw, hh, haw, hah, hag⟩
  have L' : Launch s' := ⟨hs', ew ▸ hw, eh ▸ hh, haw', hah', hag'⟩
  obtain ⟨t, hrun, C⟩ := L.completes
  obtain ⟨t', hrun', C'⟩ := L'.completes
  have hw' : s'.launched.width = s.launched.width := ew
  have hh' : s'.launched.height = s.launched.height := eh
  have hlast : s'.launched.srcRead (s.launched.width.toNat - 1) (s.launched.height.toNat - 1) =
      s.launched.srcRead (s.launched.width.toNat - 1) (s.launched.height.toNat - 1) :=
    hsrc _ _ (Nat.sub_one_lt_of_lt L.rendering.sxInside) (Nat.sub_one_lt_of_lt L.rendering.syInside)
  rw [ew, eh] at hrun'
  refine ⟨t, t', hrun, hrun', fun a hx hy => ?_, ?_, ?_, ?_, ?_, ?_, C'.sx.trans C.sx.symm, ?_,
    C'.sj.trans C.sj.symm, C'.si.trans C.si.symm, C'.busy.trans C.busy.symm, C'.done.trans C.done.symm, ?_, ?_, ?_, ?_⟩
  · have hr : s.launched.inRegion a = true := (inRegion_iff _ _).2 ⟨hx, hy⟩
    have hr' : s'.launched.inRegion a = true := (inRegion_iff _ _).2 (by rw [hw', hh']; exact ⟨hx, hy⟩)
    rw [C'.image, C.image, if_pos hr, if_pos hr']
    exact congrArg some (rendered_congr em eg ew hsrc hr)
  · rw [C'.same.tile, C.same.tile]
    exact congrArg₂ (genTile params) em eg
  · exact Fin.ext (by rw [C'.curRow, C.curRow, hw', hh'])
  · exact Fin.ext (by rw [C'.curCol, C.curCol, hw', hh'])
  · rw [C'.prev, C.prev, hw', hh', hlast]
  · rw [C'.curPix, C.curPix, hw', hh', hlast]
  · rw [C'.sy, C.sy, hh']
  · rw [C'.same.width, C.same.width, hw']
  · rw [C'.same.height, C.same.height, hh']
  · rw [C'.same.maskStrength, C.same.maskStrength]
    exact em
  · rw [C'.same.gapStrength, C.same.gapStrength]
    exact eg

end

section
/-! PROOF. CLEAR_STATUS as a command and as a CMD word, and the STATUS word it leaves. -/

namespace Sys2Proof.Machine

theorem execClearStatus_idle {s : State} (h : s.busy = false) : execClearStatus s = .next s.clearFlags :=
  whenIdle_idle _ h

/-- Once its flags are cleared, an idle block's STATUS is 0: what is left of the word is BUSY (R29, R150). -/
theorem clearFlags_status {s : State} (h : s.busy = false) : (s.clearFlags.regWord .status).toNat = 0 :=
  (statusWord_toNat s.clearFlags).trans (by simp [h, ErrCode.code])

end Sys2Proof.Machine

open Sys2Proof Sys2Proof.Machine

/-- Settles O16: on an idle block CLEAR_STATUS is `clearFlags`, and its only word without a reserved bit is its own; on
a busy one the busy check comes first. -/
theorem clearStatusClearsFlags : Obligations.ClearStatusClearsFlags := by
  intro s recorded
  refine ⟨fun hb => ?_, fun hb => exec_and_cmdWrite_busy (i := .clearStatus) hb (by decide)⟩
  obtain ⟨hexec, hword⟩ := exec_and_cmdWrite (i := .clearStatus) rfl rfl (execClearStatus_idle hb)
  refine ⟨hexec, hword, busRead_exact rfl (by decide) (fun _ => rfl) (clearFlags_status hb), fun w hw hne => ?_⟩
  have hopc : opcField w = Op.clearStatus.opc := (shiftRight_eq_iff w 0xF0#8).1 hw
  have hown : 0xF0000000#32 = encode .clearStatus := rfl
  exact cmdWrite_reserved hb hopc (reserved_of_ne_encode hopc (hne.trans_eq hown))

end

section
/-! PROOF. The errors of a CMD write in R164's order: what each of R78's checks says of the word, and what a step can
do to ERR and ERRCODE. -/

namespace Sys2Proof

/-- The assigned opcodes as R74 lists them. -/
theorem mem_assignedOpcodes_iff (w : Word) :
    w >>> 24 ∈ [0x00#32, 0x01#32, 0x02#32, 0x03#32, 0x04#32, 0x10#32, 0x11#32, 0x20#32, 0xF0#32, 0xFF#32] ↔
      ∃ o : Op, opcField w = o.opc := by
  have hrows : [0x00#32, 0x01#32, 0x02#32, 0x03#32, 0x04#32, 0x10#32, 0x11#32, 0x20#32, 0xF0#32, 0xFF#32] =
      Op.all.map fun o => o.opc.setWidth 32 := rfl
  have hall (o : Op) : o ∈ Op.all := by cases o <;> decide
  simp only [hrows, List.mem_map, hall, true_and, eq_comm (b := w >>> 24), shiftRight_eq_iff]

/-- A word whose opcode is not assigned is rejected by the decoder's first check (R75, R164). -/
theorem decodeWord_illegalOpcode {w : Word} (h : ¬∃ o : Op, opcField w = o.opc) :
    decodeWord w = .error .illegalOpcode := by
  cases ho : Op.ofOpc (opcField w) with
  | none => simp [decodeWord, ho]
  | some o => exact absurd ⟨o, (opc_of_ofOpc ho).symm⟩ h

/-- R72's reserved-zero masks by opcode. -/
theorem reservedZeroMask_eq_ite (o : Op) :
    o.format.reservedZeroMask =
      if o.opc.setWidth 32 = 0x01#32 ∨ o.opc.setWidth 32 = 0x02#32 then 0x00FFFF00#32
      else if o.opc.setWidth 32 = 0x03#32 ∨ o.opc.setWidth 32 = 0x04#32 then 0x00FF0000#32
      else if o.opc.setWidth 32 = 0x11#32 then 0x00FFF8F8#32
      else 0x00FFFFFF#32 := by
  cases o <;> rfl

theorem colField_toNat (w : Word) : (colField w).toNat = (w &&& 7#32).toNat := by
  rw [BitVec.toNat_and]
  exact (Nat.and_two_pow_sub_one_eq_mod w.toNat 3).symm

/-- Of the words of a row only READ_LUT's with COL 6 or 7 is out of range (R77). -/
theorem wf_instr_eq_false_iff (o : Op) (w : Word) :
    (o.instr w).wf = false ↔ o.opc.setWidth 32 = 0x11#32 ∧ 6 ≤ (w &&& 7#32).toNat := by
  cases o with
  | readLut =>
    rw [← colField_toNat]
    simp [Op.instr, Instr.wf, Op.opc]
  | _ => simp [Op.instr, Instr.wf, Op.opc]

end Sys2Proof

namespace Sys2Proof.Machine

@[simp] theorem regRead_err (r : Reg) (s : State) : (regRead r s).err = s.err := by
  obtain ⟨v, n, h⟩ := regRead_eq r s
  rw [h]

@[simp] theorem regRead_errCode (r : Reg) (s : State) : (regRead r s).errCode = s.errCode := by
  obtain ⟨v, n, h⟩ := regRead_eq r s
  rw [h]

theorem resetBlock_flags (c : Config) (s : State) :
    (resetBlock c s).err = false ∧ (resetBlock c s).errCode = .noError := by
  rw [resetBlock_registers]
  exact ⟨rfl, rfl⟩

/-- What each command does to ERR and ERRCODE: a READ_LUT out of range records RANGE, CLEAR_STATUS and SOFT_RESET clear
both, no other touches them (R77, R150, R151). -/
theorem Ran.flags {s t : State} {i : Instr} (hran : Ran s i t) :
    (t.err = s.err ∧ t.errCode = s.errCode) ∨ t = recordError .range s ∨
    ((i = .clearStatus ∨ i = .softReset) ∧ t.err = false ∧ t.errCode = .noError) := by
  cases hran with
  | readLutRange row col _ => exact .inr (.inl rfl)
  | clearStatus => exact .inr (.inr ⟨.inl rfl, rfl, rfl⟩)
  | softReset => exact .inr (.inr ⟨.inr rfl, resetBlock_flags _ _⟩)
  | _ => exact .inl ⟨rfl, rfl⟩

/-- The next event is one that clears ERR and ERRCODE: CLEAR_STATUS to an idle block, SOFT_RESET or the reset input
(R150, R168, R180). -/
def State.clearsNext (s : State) : Prop :=
  (s.writesCommand 0xF0000000#32 ∧ s.busy = false) ∨ s.writesCommand 0xFF000000#32 ∨ s.resetsNext

/-- What a step can do to ERR and ERRCODE: keep both, record a real error by R162, or clear both. -/
theorem step_flags {s t : State} (hstep : step s = .next t) :
    (t.err = s.err ∧ t.errCode = s.errCode) ∨
    (∃ e : ErrCode, e ≠ .noError ∧ t.err = true ∧ t.errCode = if s.err then s.errCode else e) ∨
    (s.clearsNext ∧ t.err = false ∧ t.errCode = .noError) := by
  cases step_cases hstep with
  | rejected ag e he => exact .inr (.inl ⟨e, he, rfl, rfl⟩)
  | command ag addr data w i _ hh hr hw hd hb he =>
    have hword := writesCommand_encode hh hr hw hd
    rcases (exec_ran (s := { s with agenda := ag }) hb he).flags with hkept | rfl | ⟨rfl | rfl, hcleared⟩
    · exact .inl hkept
    · exact .inr (.inl ⟨.range, by decide, rfl, rfl⟩)
    · have hidle : s.busy = false := Bool.eq_false_iff.2 fun hbusy => nomatch hb hbusy
      exact .inr (.inr ⟨.inl ⟨hword, hidle⟩, hcleared⟩)
    · exact .inr (.inr ⟨.inr (.inl hword), hcleared⟩)
  | reset ag hh => exact .inr (.inr ⟨.inr (.inr ⟨ag, hh⟩), resetBlock_flags _ _⟩)
  | engine ag _ =>
    have same := engineStep_sameSetting { s with agenda := ag }
    exact .inl ⟨same.err, same.errCode⟩
  | read ag r => exact .inl ⟨regRead_err _ _, regRead_errCode _ _⟩
  | _ => exact .inl ⟨rfl, rfl⟩

end Sys2Proof.Machine

open Sys2Proof Sys2Proof.Machine

/-- Settles O4: each check of the procedure is the decoder's check of the word's row in R74's table, and a word that
passes them is the encoding of what its fields hold. -/
theorem commandWriteFollowsProcedure : Obligations.CommandWriteFollowsProcedure := by
  intro w s opc recorded rejectedBusy assigned reservedZero outOfRange
  have hopc (o : Op) : opcField w = o.opc → opc = o.opc.setWidth 32 := (shiftRight_eq_iff w o.opc).2
  have hmask {o : Op} (ho : opcField w = o.opc) : reservedZero = o.format.reservedZeroMask := by
    rw [reservedZeroMask_eq_ite, ← hopc o ho]
  have hrange {o : Op} (ho : opcField w = o.opc) : outOfRange ↔ (o.instr w).wf = false := by
    rw [wf_instr_eq_false_iff, ← hopc o ho]
  have hbusy (h : ¬rejectedBusy) (hb : s.busy = true) : opcField w = Op.softReset.opc :=
    (shiftRight_eq_iff w 0xFF#8).1 (not_not.1 fun hne => h ⟨hb, hne⟩)
  refine ⟨fun h => ?busy, fun h hun => ?opcode, fun h has hr => ?reserved, fun h has hr hout => ?range,
    fun h has hr hin => ?accepted⟩
  case busy => exact cmdWrite_busy h.1 fun ho => h.2 (hopc .softReset ho)
  case opcode => exact cmdWrite_error (hbusy h) (decodeWord_illegalOpcode (mt (mem_assignedOpcodes_iff w).2 hun))
  all_goals
    obtain ⟨o, ho⟩ := (mem_assignedOpcodes_iff w).1 has
    rw [hmask ho] at hr
  case reserved => exact cmdWrite_error (hbusy h) (decodeWord_reserved ho hr)
  case range =>
    have hdecode := decodeWord_encode_range ((hrange ho).1 hout)
    rw [encode_instr ho.symm hr] at hdecode
    exact cmdWrite_error (hbusy h) hdecode
  case accepted =>
    have hwf : (o.instr w).wf = true := by simpa [hrange ho] using hin
    have hword := encode_instr ho.symm hr
    exact ⟨o.instr w, hwf, hword, (exec_and_cmdWrite hwf hword rfl).2⟩

/-- Settles O18: the busy check comes before the decoder for every opcode but SOFT_RESET's, whose only word without a
reserved bit is its own. -/
theorem busyRejectsAllButSoftReset : Obligations.BusyRejectsAllButSoftReset := by
  intro s hb
  have hopc (w : Word) : w >>> 24 = 0xFF#32 ↔ opcField w = Op.softReset.opc := shiftRight_eq_iff w 0xFF#8
  refine ⟨fun w hw => cmdWrite_busy hb (mt (hopc w).2 hw), fun i hi => exec_busy hb hi, fun w hw hne => ?_⟩
  have ho := (hopc w).1 hw
  have hown : 0xFF000000#32 = encode .softReset := rfl
  exact cmdWrite_error (fun _ => ho) (decodeWord_reserved ho (reserved_of_ne_encode ho (hne.trans_eq hown)))

/-- Settles O36, from the three things a step can do to ERR and ERRCODE. -/
theorem firstErrorIsKept : Obligations.FirstErrorIsKept := by
  intro s t hstep
  rcases step_flags hstep with ⟨herr, hcode⟩ | ⟨e, he, herr, hcode⟩ | ⟨hevent, herr, hcode⟩
  · exact ⟨fun hs => .inl ⟨herr.trans hs, hcode⟩, fun hs ht => by simp [herr, hs] at ht⟩
  · exact ⟨fun hs => .inl ⟨herr, by simpa [hs] using hcode⟩, fun hs _ => by simpa [hcode, hs] using he⟩
  · exact ⟨fun _ => .inr ⟨hevent, herr, hcode⟩, fun _ ht => by simp [herr] at ht⟩

end

section
/-! PROOF. A running render between its steps: what no step changes while it runs, and how it ends when left alone. -/

namespace Sys2Proof.Machine

/-- Outside the region a running render has left the destination as it stood at its start (R59). -/
theorem Rendering.lookup_outside {s : State} (R : Rendering s) {a : Coord} (ha : ¬s.inRegion a = true) :
    s.dst.lookup a = s.dstBefore.lookup a := by
  rw [R.dstProgress a, State.written, Bool.eq_false_iff.2 ha]
  rfl

end Sys2Proof.Machine

open Sys2Proof Sys2Proof.Machine

/-- Settles O30: a render left alone completes, and what it leaves outside the region is what was there before. -/
theorem everyRunningRenderCompletes : Obligations.EveryRunningRenderCompletes := by
  intro s I hb ha
  have R := I.rendering hb
  obtain ⟨t, hrun, C⟩ := run_completed R hb ha
  refine ⟨stepsTaken_lt R, t, hrun, C.busy, C.done, C.sx, C.sy, fun a hx hy => ?_, fun a hout => ?_⟩
  · rw [C.image, if_pos ((inRegion_iff s a).2 ⟨hx, hy⟩)]
  · have hr := mt (inRegion_iff s a).1 hout
    rw [C.image, if_neg hr, R.lookup_outside hr]

/-- Settles O34: while BUSY the host's moves on its images are stopped and the one accepted command ends the render;
every other move leaves the setting alone. -/
theorem configurationIsFixedWhileRendering : Obligations.ConfigurationIsFixedWhileRendering := by
  intro s t hstep hs ht
  cases step_cases hstep with
  | engine ag _ =>
    have same := engineStep_sameSetting { s with agenda := ag }
    exact ⟨same.maskStrength, same.gapStrength, same.width, same.height, same.tile, same.src, same.allocWidth,
      same.allocHeight⟩
  | read ag r =>
    obtain ⟨v, n, h⟩ := regRead_eq r { s with agenda := ag }
    simp [h]
  | command ag addr data w i _ hh hr hw hd hb he =>
    obtain rfl := hb hs
    cases he
    simp at ht
  | reset ag _ => simp at ht
  | storeSrc _ _ _ hb | allocDst _ _ _ hb | storeDst _ _ _ hb _ => simp [hs] at hb
  | quiet _ | rejected _ _ _ | loadDst _ _ _ => simp

end

section
/-! PROOF. Reset: by SOFT_RESET, its CMD word or the reset input, what it does to the registers and to each destination
pixel, and that it meets the invariant. -/

namespace Sys2Proof.Machine

/-- A step takes the first event of the agenda and runs it (R20). -/
theorem step_event {s : State} {e : Event} {rest : List Event} (h : s.agenda = e :: rest) :
    step s = runEvent e { s with agenda := rest } := by
  simp only [step, takeStep, h]

/-- SOFT_RESET's opcode with a reserved bit records RESERVED_BITS, busy or not (R76, R163). -/
theorem cmdWrite_softReset_reserved {s : State} {w : Word} (hw : w >>> 24 = 0xFF#32) (hne : w ≠ 0xFF000000#32) :
    cmdWrite w s = .next (recordError .reservedBits s) := by
  have ho : opcField w = Op.softReset.opc := (shiftRight_eq_iff w 0xFF#8).1 hw
  have hown : 0xFF000000#32 = encode .softReset := rfl
  exact cmdWrite_error (fun _ => ho) (decodeWord_reserved ho (reserved_of_ne_encode ho (hne.trans_eq hown)))

/-- A reset neither reads nor writes the agenda (assumption log 11). -/
theorem resetBlock_withAgenda (c : Config) (s : State) (ag : List Event) :
    resetBlock c { s with agenda := ag } = { resetBlock c s with agenda := ag } := by
  rcases Bool.eq_false_or_eq_true s.busy with hb | hb
  · rw [resetBlock_busy c s hb, resetBlock_busy c { s with agenda := ag } hb]
    rfl
  · rw [resetBlock_idle c s hb, resetBlock_idle c { s with agenda := ag } hb]
    rfl

theorem resetBlock_dst_idle (c : Config) {s : State} (hb : s.busy = false) : (resetBlock c s).dst = s.dst := by
  rw [resetBlock_idle c s hb]
  rfl

/-- A reset of a busy block leaves each destination pixel as the abort does (R181). -/
theorem resetBlock_lookup_busy (c : Config) {s : State} (hb : s.busy = true) (a : Coord) :
    (resetBlock c s).dst.lookup a = if s.inRegion a then s.abortedPixel c a else s.dst.lookup a := by
  rw [resetBlock_busy c s hb]
  exact abortRender_lookup c s a

/-- The draw of an abort has two outcomes (R181, U2). -/
theorem abortedPixel_cases (c : Config) (s : State) (a : Coord) :
    s.abortedPixel c a = some (s.rendered c a) ∨ s.abortedPixel c a = s.dstBefore.lookup a :=
  ite_eq_or_eq _ _ _

end Sys2Proof.Machine

open Sys2Proof Sys2Proof.Machine

/-- Settles O17: SOFT_RESET, its word and the reset input are all `resetBlock`, whose registers `resetBlock_registers`
names and whose abort draws the pixels of the region only. -/
theorem resetRestoresBlockAndAborts : Obligations.ResetRestoresBlockAndAborts := by
  intro s
  obtain ⟨hexec, hword⟩ : exec .softReset s = .next (resetBlock params s) ∧
      cmdWrite 0xFF000000#32 s = .next (resetBlock params s) := exec_and_cmdWrite rfl rfl rfl
  refine ⟨fun w hw hne => cmdWrite_softReset_reserved hw hne, resetBlock params s, hexec, hword,
    fun rest hag => ?input, ?configuration, ?cursor, ?sequencer, ?flags, ?outside, resetBlock_dst_idle params,
    fun hb a => ⟨fun hin => ?inRegion, fun hout => ?outOfRegion⟩⟩
  case input => exact (step_event hag).trans (congrArg _ (resetBlock_withAgenda params s rest))
  case inRegion =>
    rw [resetBlock_lookup_busy params hb, if_pos ((inRegion_iff s a).2 hin)]
    exact abortedPixel_cases params s a
  case outOfRegion => rw [resetBlock_lookup_busy params hb, if_neg (mt (inRegion_iff s a).1 hout)]
  all_goals rw [resetBlock_registers]
  case configuration => exact ⟨rfl, rfl, rfl, rfl, rfl⟩
  case cursor => exact ⟨rfl, rfl, rfl, rfl⟩
  case sequencer => exact ⟨rfl, rfl, rfl, rfl⟩
  case flags => exact ⟨rfl, rfl, rfl, rfl, rfl⟩
  case outside => exact ⟨rfl, rfl, rfl, rfl, rfl⟩

/-- Settles O32: no render runs and nothing is written, so of what the host brings only the source image has to be
canonical. -/
theorem resetMeetsInvariant : Obligations.ResetMeetsInvariant := by
  intro src w h agenda hsrc
  obtain ⟨-, hdst, hbefore⟩ := reset_canonical
  exact {
    srcCanonical := hsrc
    dstCanonical := hdst
    beforeCanonical := hbefore
    dstInside := fun a p hp => nomatch (lookup_nil a).symm.trans hp
    resultPacked := ⟨black, rfl⟩
    tileGenerated := ⟨_, _, rfl⟩
    errPaired := iff_of_true rfl rfl
    idlePosition := fun _ => ⟨rfl, rfl, rfl, rfl⟩
    rendering := fun hb => nomatch hb }

end

section
/-! PROOF. What stands between a command and what it reads: TILE is the old one until GEN_LUT (R188), and RENDER has no
meaning before its destination is allocated (R184). -/

namespace Sys2Proof.Machine

/-- The launch premise fails as soon as one side of the allocation is too small (R184). -/
theorem dstAllocated_eq_false {s : State}
    (h : s.allocWidth < 4 * s.width.toNat ∨ s.allocHeight < 4 * s.height.toNat) : s.dstAllocated = false := by
  rw [Bool.eq_false_iff]
  intro hall
  simp only [State.dstAllocated, scale, Bool.and_eq_true, decide_eq_true_eq] at hall
  omega

end Sys2Proof.Machine

open Sys2Proof Sys2Proof.Machine

/-- Settles O15: a nonempty image reaches RENDER's launch premise, which one short side of the allocation breaks. -/
theorem renderWithoutAllocationIsRefused : Obligations.RenderWithoutAllocationIsRefused :=
  fun _ hs hw hh hshort => execRender_refused hs (not_or.2 ⟨hw, hh⟩) (dstAllocated_eq_false hshort)

/-- Settles O19: the SET commands leave TILE, READ_LUT packs a cell of TILE as it stands, and GEN_LUT loads it. -/
theorem readLutSeesTileUntilReloaded : Obligations.ReadLutSeesTileUntilReloaded := by
  intro s mask gap row col hcol hs
  have hread (u : State) (hu : u.busy = false) : exec (.readLut row col) u = _ := execReadLut_idle row col hu hcol
  rw [← rowOperand_eq]
  exact ⟨_, _, _, _, _, execSetMaskStrength_idle mask hs, execSetGapStrength_idle gap hs, hread _ hs, rfl,
    execGenLut_idle hs, hread _ hs, rfl⟩

end

section
/-! PROOF. The host's moves on its images: what each does on an idle block, that three of them stop on a busy one, and
what a destination load gives on either. -/

namespace Sys2Proof.Machine

theorem hostMove_idle {s : State} (k : State → Result) (h : s.busy = false) : hostMove s k = k s :=
  if_neg (by simp [h])

theorem hostMove_busy {s : State} (k : State → Result) (h : s.busy = true) :
    hostMove s k = .fault .hostMoveWhileBusy :=
  if_pos h

/-- While BUSY the host has no move that writes an image or replaces one (R186). -/
theorem hostWrites_busy {s : State} (hb : s.busy = true) :
    (∀ (a : Coord) (p : Pixel), hostStoreSrc a p s = .fault .hostMoveWhileBusy) ∧
    (∀ w h : Nat, hostAllocDst w h s = .fault .hostMoveWhileBusy) ∧
    ∀ (a : Coord) (p : Pixel), hostStoreDst a p s = .fault .hostMoveWhileBusy :=
  ⟨fun _ _ => hostMove_busy _ hb, fun _ _ => hostMove_busy _ hb, fun _ _ => hostMove_busy _ hb⟩

theorem hostStoreSrc_idle {s : State} (a : Coord) (p : Pixel) (hs : s.busy = false) :
    hostStoreSrc a p s = .next { s with src := s.src.storeSrc a p } := hostMove_idle _ hs

theorem hostAllocDst_idle {s : State} (w h : Nat) (hs : s.busy = false) :
    hostAllocDst w h s = .next { s with dst := [], allocWidth := w, allocHeight := h } := hostMove_idle _ hs

theorem hostStoreDst_inside {s : State} {a : Coord} (p : Pixel) (hs : s.busy = false)
    (h : a.inside s.allocWidth s.allocHeight = true) : hostStoreDst a p s = .next (s.dstWrite a p) := by
  rw [hostStoreDst, hostMove_idle _ hs, if_pos h]

theorem hostStoreDst_outside {s : State} {a : Coord} (p : Pixel) (hs : s.busy = false)
    (h : ¬a.inside s.allocWidth s.allocHeight = true) : hostStoreDst a p s = .fault .outsideAllocation := by
  rw [hostStoreDst, hostMove_idle _ hs, if_neg h]

/-! ### A load that no running render can touch: on an idle block, or outside the region (R187) -/

section

variable {s : State} {a : Coord} (h : a.inside s.allocWidth s.allocHeight = true)
  (hr : ¬(s.busy = true ∧ s.inRegion a = true))

include h hr

theorem hostLoadDst_some {p : Pixel} (hp : s.dst.lookup a = some p) :
    hostLoadDst a s = .next (s.deliver (.pixel p)) := by
  rw [hostLoadDst_exact h hr, hp]
  rfl

theorem hostLoadDst_none (hnone : s.dst.lookup a = none) : hostLoadDst a s = .fault .dstUnwritten := by
  rw [hostLoadDst_exact h hr, hnone]
  rfl

end

end Sys2Proof.Machine

open Sys2Proof Sys2Proof.Machine

/-- Settles O39: each clause is one event on an idle or a busy block, at a coordinate inside the allocation or not. -/
theorem hostImageMoves : Obligations.HostImageMoves := by
  intro s a p rest
  let u : State := { s with agenda := rest }
  have inside (hx : a.x < s.allocWidth) (hy : a.y < s.allocHeight) : a.inside s.allocWidth s.allocHeight = true :=
    (Coord.inside_iff _ _ _).2 ⟨hx, hy⟩
  have outside (h : ¬(a.x < s.allocWidth ∧ a.y < s.allocHeight)) : ¬a.inside s.allocWidth s.allocHeight = true :=
    mt (Coord.inside_iff _ _ _).1 h
  have notRunning (hs : s.busy = false) : ¬(s.busy = true ∧ s.inRegion a = true) := by simp [hs]
  have notInRegion (hr : ¬(a.x < 4 * s.width.toNat ∧ a.y < 4 * s.height.toNat)) :
      ¬(s.busy = true ∧ s.inRegion a = true) := fun h => hr ((inRegion_iff s a).1 h.2)
  refine ⟨fun hag hs => ?storeSrc, fun w h hag hs => ?allocDst, fun hag hs hx hy => ?storeDst,
    fun hag hs hx hy hp => ?load, fun hag hs hx hy hnone => ?loadUnwritten, fun hag hs hout => ?storeOutside,
    fun hag hout => ?loadOutside, fun hag hb hx hy => ⟨fun hr => ?loadBusy, fun hrx hry => ?loadEarly⟩,
    fun hb => ?writeBusy⟩
  case storeSrc =>
    exact ⟨_, (step_event hag).trans (hostStoreSrc_idle a p hs), rfl, fun x y => storeSrc_read s.src a ⟨x, y⟩ p⟩
  case allocDst => exact ⟨_, (step_event hag).trans (hostAllocDst_idle w h hs), rfl, lookup_nil⟩
  case storeDst =>
    exact ⟨_, (step_event hag).trans (hostStoreDst_inside p hs (inside hx hy)), rfl,
      fun b => lookup_insert s.dst a b p⟩
  case load => exact (step_loadDst hag).trans (hostLoadDst_some (s := u) (inside hx hy) (notRunning hs) hp)
  case loadUnwritten => exact (step_loadDst hag).trans (hostLoadDst_none (inside hx hy) (notRunning hs) hnone)
  case storeOutside => exact (step_event hag).trans (hostStoreDst_outside p hs (outside hout))
  case loadOutside => exact (step_loadDst hag).trans (hostLoadDst_outside (outside hout))
  case loadBusy =>
    exact ⟨fun hp => (step_loadDst hag).trans (hostLoadDst_some (s := u) (inside hx hy) (notInRegion hr) hp),
      fun hnone => (step_loadDst hag).trans (hostLoadDst_none (inside hx hy) (notInRegion hr) hnone)⟩
  case loadEarly =>
    exact (step_loadDst hag).trans (hostLoadDst_early (inside hx hy) hb ((inRegion_iff s a).2 ⟨hrx, hry⟩))
  case writeBusy =>
    obtain ⟨hstoreSrc, hallocDst, hstoreDst⟩ := hostWrites_busy (s := u) hb
    exact ⟨fun hag => (step_event hag).trans (hstoreSrc a p), fun w h hag => (step_event hag).trans (hallocDst w h),
      fun hag => (step_event hag).trans (hstoreDst a p)⟩

end
